-- ==== Sys2Proof/Word.lean ====
section
/-! DEFINITION. The word types of the block: R10 (a byte is 8 bits), R69 (a control word is 16 bits). -/

namespace Sys2Proof

/-- A byte: 8 bits, bit 0 least significant, always unsigned (R10). -/
abbrev Byte := BitVec 8

/-- A control word: 16 bits, written whole to the control port (R69). -/
abbrev ControlWord := BitVec 16

end Sys2Proof
end

