-- ==== Sys2Proof/Config.lean ====
section
/-! DEFINITION. The implementation parameters of `00_scope.md` R8, the answers of the external oracles, and the
free values the spec leaves open (`93_implementation_defined.md` part 1). -/

namespace Sys2Proof

/-- The `ACTUATOR` parameter of R8: every answer admitted (R124), or the reference stub of R125. -/
inductive Actuator
  | oracle
  | stub
  deriving DecidableEq, Repr, Inhabited

/-- The parameters of R8 that the model takes as arguments, once for both instances (R80).
`ADDR_W`, `WAIT_W`, `CRC_W`, `CMD_SET`, `STATUS_SET`, `DIR_SET` and the offsets of `FIELDS` are fixed.
`P_OWN_ADDR` is a 7-bit value, so that R9's bound on it holds by its type (log 7). -/
structure Params where
  /-- `P_D`, the number of data bytes of a frame. -/
  pD : Nat
  /-- `SPEED_MAX`, compared as a value (R146). -/
  speedMax : Nat
  crcPoly : Byte
  crcInit : Byte
  crcReflect : Bool
  crcXorout : Byte
  /-- `P_OWN_ADDR`, the address strap of `P` (R36). -/
  ownAddr : BitVec 7
  /-- `PARTIAL_DELIVERY` (R52, R118). -/
  partialDelivery : Bool
  /-- `BUS_NOISE` (R52, R53). -/
  busNoise : Bool
  /-- `DELAY_SUFFICIENT`, the named assumption of R57: a claim may take it as a premise. -/
  delaySufficient : Bool
  actuator : Actuator
  deriving DecidableEq, Repr

/-- `P_L`, the frame length: code byte, data bytes, checksum byte (R8, R61). -/
def Params.pL (prm : Params) : Nat := prm.pD + 2

/-- The `BusError` kinds (R149). -/
inductive BusError
  | noResponse
  | shortRead
  | addressNack
  | timeout
  | other
  deriving DecidableEq, Repr, Inhabited

/-- What `ACT` answers to `Invoke` (R124). -/
inductive ActAnswer
  | ok (data : List Byte)
  | domainError
  | pending
  deriving DecidableEq, Repr, Inhabited

/-- One draw: everything an external agent may settle inside one step. A step reads the fields that concern it and
no other. `93_implementation_defined.md`: every draw is a free input of the step that makes it. -/
structure Draw where
  /-- The outcome of a bus primitive: `none` is `Ok`, `some k` is `Err(k)` (R52, R53). -/
  error : Option BusError
  /-- Whether a noisy write delivers anything (R52). -/
  delivers : Bool
  /-- The bytes a noisy write delivers (R52), or the bytes a drawn read returns (R53). -/
  bytes : List Byte
  /-- The lengths of the chunks before the last one, under `PARTIAL_DELIVERY` (R52). -/
  cuts : List Nat
  /-- The actuator's answer (R124). -/
  answer : ActAnswer
  /-- Whether `H` moves before `P` when both have an enabled step and no input says (R15, R159). -/
  hostFirst : Bool
  deriving DecidableEq, Repr, Inhabited

/-- The n-th free value: nothing constrains it (log 3). -/
opaque Config.freeDraw : Nat → Draw

/-- The strap `P_OWN_ADDR`, which R8 leaves OPEN (log 5). -/
opaque Config.pOwnAddr : BitVec 7

/-- The parameters of this hardware (R8): the values given there, and for the OPEN ones the sound default the spec
names, or no value at all (log 5). -/
def Config.params : Params where
  pD := 2
  speedMax := 100
  crcPoly := 0x07
  crcInit := 0x00
  crcReflect := false
  crcXorout := 0x00
  ownAddr := Config.pOwnAddr
  partialDelivery := false
  busNoise := true
  delaySufficient := false
  actuator := .oracle

end Sys2Proof
end

