-- ==== Sys2Proof/Machine/Checksum.lean ====
section
/-! DEFINITION. The checksum engine's functions (CKE): `40_checksum.md` R76 to R80. -/

namespace Sys2Proof.Machine

/-- One of the 8 shift steps of R76. -/
def shiftStep (prm : Params) (c : Byte) : Byte :=
  if prm.crcReflect then
    if c.getLsbD 0 then (c >>> 1) ^^^ prm.crcPoly.reverse else c >>> 1
  else
    if c.getLsbD 7 then (c <<< 1) ^^^ prm.crcPoly else c <<< 1

/-- The table entry `T[i]` (R76): 8 shift steps from the index. -/
def tableEntry (prm : Params) (i : Byte) : Byte :=
  Nat.iterate (shiftStep prm) 8 i

/-- The read-only table `T[0..255]` (R37). -/
def crcTable (prm : Params) : List Byte :=
  (List.range 256).map fun i => tableEntry prm (BitVec.ofNat 8 i)

/-- `crc_update(c, b) = T[c XOR b]` (R77). -/
def crcUpdate (prm : Params) (c b : Byte) : Byte :=
  tableEntry prm (c ^^^ b)

/-- The running state after the bytes, from a given state (R78's loop). -/
def crcRun (prm : Params) (c : Byte) (bytes : List Byte) : Byte :=
  bytes.foldl (crcUpdate prm) c

/-- `checksum(bytes)` for a sequence of any length (R78). -/
def checksum (prm : Params) (bytes : List Byte) : Byte :=
  crcRun prm prm.crcInit bytes ^^^ prm.crcXorout

end Sys2Proof.Machine
end

