-- ==== Sys2Proof/Syntax.lean ====
section
/-! DEFINITION. The syntax: one constructor of `Instr` for each row of `spec/opcode_table.json`, and the closed
enumerations of commands (R102), statuses (R67) and decode errors (R150). -/

namespace Sys2Proof

/-- The closed command set `CMD_SET` (R66, R102). -/
inductive Cmd
  | ping
  | stop
  | setSpeed
  | getStatus
  deriving DecidableEq, Repr

/-- The closed status set `STATUS_SET` (R67). -/
inductive Status
  | ok
  | errorBadCrc
  | errorUnknownCommand
  | errorBusy
  | errorOutOfRange
  | errorDomain
  | errorBadLength
  deriving DecidableEq, Repr

/-- The direction `decode` is told (R94): the code byte must be a command, or a status. -/
inductive Direction
  | req
  | resp
  deriving DecidableEq, Repr

/-- Why `decode` refuses a byte sequence (R94, R150). -/
inductive DecodeError
  | lengthMismatch
  | badChecksum
  | unknownOpcode
  deriving DecidableEq, Repr

/-- Why a control word is illegal (R71); every reason gives the one acknowledge ILLEGAL_CW. -/
inductive IllegalWord
  | reservedOp
  | selNotZero
  | immNotZero
  | selOutOfRange
  | addressTooWide
  | unmappedRegister
  deriving DecidableEq, Repr

/-- Why the decoder rejects a code, by name. -/
inductive Reject
  | illegalWord (why : IllegalWord)
  | badFrame (why : DecodeError)
  deriving DecidableEq, Repr

/-- The instructions, row for row as in `spec/opcode_table.json`: ten control words (R70), four request frames (R66)
and seven response frames (R67). A frame's `data` are its data bytes in wire order (R64); its checksum byte is a
function of the rest (R61) and no operand. -/
inductive Instr
  | crcInit
  | crcUpd (imm : Byte)
  | crcFin
  | reqSet (sel : BitVec 4) (imm : Byte)
  | enc
  | dec
  | cfgSet (sel : BitVec 4) (imm : Byte)
  | txn
  | ack
  | rd (reg : Byte)
  | ping (data : List Byte)
  | stop (data : List Byte)
  | setSpeed (data : List Byte)
  | getStatus (data : List Byte)
  | ok (data : List Byte)
  | errorBadCrc (data : List Byte)
  | errorUnknownCommand (data : List Byte)
  | errorBusy (data : List Byte)
  | errorOutOfRange (data : List Byte)
  | errorDomain (data : List Byte)
  | errorBadLength (data : List Byte)
  deriving DecidableEq, Repr

/-- The request instruction of a command (R66). -/
def Cmd.instr : Cmd → List Byte → Instr
  | .ping => .ping
  | .stop => .stop
  | .setSpeed => .setSpeed
  | .getStatus => .getStatus

/-- The response instruction of a status (R67). -/
def Status.instr : Status → List Byte → Instr
  | .ok => .ok
  | .errorBadCrc => .errorBadCrc
  | .errorUnknownCommand => .errorUnknownCommand
  | .errorBusy => .errorBusy
  | .errorOutOfRange => .errorOutOfRange
  | .errorDomain => .errorDomain
  | .errorBadLength => .errorBadLength

/-- An instruction as it travels: a control word, or the bytes of a frame with the direction its receiver knows
(R62, R69). -/
inductive Code
  | word (cw : ControlWord)
  | request (bytes : List Byte)
  | response (bytes : List Byte)
  deriving DecidableEq, Repr

end Sys2Proof
end

