-- ==== Sys2Proof/Machine/Operands.lean ====
section
/-! DEFINITION. Operand forms: which configurations are legal (R9), which operands a control word may carry (R71),
the register numbers (R29, R30), the fields of a frame (R46) and the bytes of a number in wire order. -/

namespace Sys2Proof.Machine

/-- A configuration the model gives a meaning to (R9). -/
def legalParams (prm : Params) : Bool :=
  decide (2 ≤ prm.pD) && decide (prm.pD ≤ 14) && decide (prm.speedMax ≤ 255)

/-- `REQ.SET`'s selector: 0 the command byte, 1..`P_D` a data byte (R71, R143). -/
def reqSelLegal (prm : Params) (sel : BitVec 4) : Bool :=
  decide (sel.toNat ≤ prm.pD)

/-- `CFG.SET`'s selector: 0, 1 or 2 (R71, R144). -/
def cfgSelLegal (sel : BitVec 4) : Bool :=
  decide (sel.toNat ≤ 2)

/-- `CFG.SET` with `SEL = 0` carries a 7-bit address (R71, R144). -/
def cfgImmLegal (sel : BitVec 4) (imm : Byte) : Bool :=
  decide (sel.toNat ≠ 0) || !imm.getLsbD 7

/-- The mapped register numbers (R29); every other number is unmapped (R30). -/
def regMapped (prm : Params) (n : Byte) : Bool :=
  decide (n.toNat ≤ 0x0D)
    || (decide (0x10 ≤ n.toNat) && decide (n.toNat ≤ 0x10 + prm.pD))
    || (decide (0x20 ≤ n.toNat) && decide (n.toNat < 0x20 + prm.pL))
    || (decide (0x30 ≤ n.toNat) && decide (n.toNat < 0x30 + prm.pL))
    || (decide (0x40 ≤ n.toNat) && decide (n.toNat < 0x40 + prm.pD))

/-- The zero data bytes of an error response (R110), of reset (R41, R42) and of a cleared response (R22). -/
def zeros (n : Nat) : List Byte :=
  List.replicate n 0

/-- A drawn byte sequence read as one of exactly `n` bytes, as R53 and R124 ask of it (log 17). -/
def fitTo (n : Nat) (bytes : List Byte) : List Byte :=
  (bytes ++ zeros n).take n

/-- The value of big-endian bytes (R46). -/
def valueBE (bytes : List Byte) : Nat :=
  bytes.foldl (fun acc b => acc * 256 + b.toNat) 0

/-- The `n` big-endian bytes of a number (the inverse of R46). -/
def bytesBE : Nat → Nat → List Byte
  | 0, _ => []
  | n + 1, v => BitVec.ofNat 8 (v / 256 ^ n) :: bytesBE n v

/-- The value of the field of width `w` at byte offset `o` of a frame (R46). -/
def fieldValue (frame : List Byte) (o w : Nat) : Nat :=
  valueBE ((frame.drop o).take w)

/-- A frame with a value written into the field of width `w` at byte offset `o` (R46, the inverse). -/
def fieldWrite (frame : List Byte) (o w v : Nat) : List Byte :=
  frame.take o ++ bytesBE w v ++ frame.drop (o + w)

/-- `SET_SPEED`'s `speed`, data byte 0, frame byte 1 (R107). -/
def speedOf (data : List Byte) : Byte :=
  data.getD 0 0

/-- `SET_SPEED`'s `dir`, data byte 1, frame byte 2 (R107). -/
def dirOf (data : List Byte) : Byte :=
  data.getD 1 0

end Sys2Proof.Machine
end

