-- ==== Sys2Proof/WellFormed.lean ====
section
/-! DEFINITION. Which instructions can be encoded under the parameters: the operand conditions of R71 and the frame
length of R61. -/

namespace Sys2Proof

open Machine

/-- The instruction has an encoding: its control word is legal (R71), or its frame has `P_L` bytes (R61). -/
def Instr.wellFormed (prm : Params) : Instr → Bool
  | .crcInit => true
  | .crcUpd _ => true
  | .crcFin => true
  | .reqSet sel _ => reqSelLegal prm sel
  | .enc => true
  | .dec => true
  | .cfgSet sel imm => cfgSelLegal sel && cfgImmLegal sel imm
  | .txn => true
  | .ack => true
  | .rd reg => regMapped prm reg
  | .ping data => decide (data.length = prm.pD)
  | .stop data => decide (data.length = prm.pD)
  | .setSpeed data => decide (data.length = prm.pD)
  | .getStatus data => decide (data.length = prm.pD)
  | .ok data => decide (data.length = prm.pD)
  | .errorBadCrc data => decide (data.length = prm.pD)
  | .errorUnknownCommand data => decide (data.length = prm.pD)
  | .errorBusy data => decide (data.length = prm.pD)
  | .errorOutOfRange data => decide (data.length = prm.pD)
  | .errorDomain data => decide (data.length = prm.pD)
  | .errorBadLength data => decide (data.length = prm.pD)

end Sys2Proof
end

