-- ==== Sys2Proof/Decode.lean ====
section
/-! DEFINITION. The codec (FCD, `41_frame_codec.md` R91 to R99), the decoder of control words and frames
(`30_encoding.md`), total and rejecting by name, and after it the encoder. -/

namespace Sys2Proof

open Machine

/-- The code byte of a command (R66). -/
def cmdCode : Cmd → Byte
  | .ping => 0x01
  | .stop => 0x02
  | .setSpeed => 0x03
  | .getStatus => 0x04

/-- The code byte of a status (R67). -/
def statusCode : Status → Byte
  | .ok => 0x80
  | .errorBadCrc => 0x81
  | .errorUnknownCommand => 0x82
  | .errorBusy => 0x83
  | .errorOutOfRange => 0x84
  | .errorDomain => 0x85
  | .errorBadLength => 0x86

/-- The command of a code byte; `none` for every value outside `CMD_SET` (R65, R66, R68). -/
def cmdOfCode (code : Byte) : Option Cmd :=
  match code.toNat with
  | 0x01 => some .ping
  | 0x02 => some .stop
  | 0x03 => some .setSpeed
  | 0x04 => some .getStatus
  | _ => none

/-- The status of a code byte; `none` for every value outside `STATUS_SET` (R65, R67, R68). -/
def statusOfCode (code : Byte) : Option Status :=
  match code.toNat with
  | 0x80 => some .ok
  | 0x81 => some .errorBadCrc
  | 0x82 => some .errorUnknownCommand
  | 0x83 => some .errorBusy
  | 0x84 => some .errorOutOfRange
  | 0x85 => some .errorDomain
  | 0x86 => some .errorBadLength
  | _ => none

/-- Whether a code byte is in the set of its direction (R94). -/
def codeInSet (dir : Direction) (code : Byte) : Bool :=
  match dir with
  | .req => (cmdOfCode code).isSome
  | .resp => (statusOfCode code).isSome

/-- `encode(code, data)` (R92): total on every code byte and all data. -/
def encodeFrame (prm : Params) (code : Byte) (data : List Byte) : List Byte :=
  (code :: data) ++ [checksum prm (code :: data)]

/-- `decode(dir, bytes)` (R94), with the checks in the order R95 makes normative. -/
def decodeFrame (prm : Params) (dir : Direction) (bytes : List Byte) :
    Except DecodeError (Byte × List Byte) :=
  if bytes.length ≠ prm.pL then .error .lengthMismatch
  else if checksum prm (bytes.take (prm.pL - 1)) ≠ bytes.getD (prm.pL - 1) 0 then .error .badChecksum
  else if !codeInSet dir (bytes.getD 0 0) then .error .unknownOpcode
  else .ok (bytes.getD 0 0, (bytes.drop 1).take prm.pD)

/-- The fields of a control word (R69). -/
def wordOp (cw : ControlWord) : BitVec 4 := cw.extractLsb' 12 4

def wordSel (cw : ControlWord) : BitVec 4 := cw.extractLsb' 8 4

def wordImm (cw : ControlWord) : Byte := cw.extractLsb' 0 8

/-- A word whose `SEL` and `IMM` must be 0 (R70). -/
def bareWord (sel : BitVec 4) (imm : Byte) (i : Instr) : Except IllegalWord Instr :=
  if sel ≠ 0 then .error .selNotZero
  else if imm ≠ 0 then .error .immNotZero
  else .ok i

/-- The control-word decoder (R70 to R72). -/
def decodeWord (prm : Params) (cw : ControlWord) : Except IllegalWord Instr :=
  match (wordOp cw).toNat with
  | 0x1 => bareWord (wordSel cw) (wordImm cw) .crcInit
  | 0x2 => if wordSel cw ≠ 0 then .error .selNotZero else .ok (.crcUpd (wordImm cw))
  | 0x3 => bareWord (wordSel cw) (wordImm cw) .crcFin
  | 0x4 =>
    if !reqSelLegal prm (wordSel cw) then .error .selOutOfRange
    else .ok (.reqSet (wordSel cw) (wordImm cw))
  | 0x5 => bareWord (wordSel cw) (wordImm cw) .enc
  | 0x6 => bareWord (wordSel cw) (wordImm cw) .dec
  | 0x7 =>
    if !cfgSelLegal (wordSel cw) then .error .selOutOfRange
    else if !cfgImmLegal (wordSel cw) (wordImm cw) then .error .addressTooWide
    else .ok (.cfgSet (wordSel cw) (wordImm cw))
  | 0x8 => bareWord (wordSel cw) (wordImm cw) .txn
  | 0x9 => bareWord (wordSel cw) (wordImm cw) .ack
  | 0xA =>
    if wordSel cw ≠ 0 then .error .selNotZero
    else if !regMapped prm (wordImm cw) then .error .unmappedRegister
    else .ok (.rd (wordImm cw))
  | _ => .error .reservedOp

/-- The request decoder: `decode(REQ, bytes)`, the command named (R66, R94). -/
def decodeRequest (prm : Params) (bytes : List Byte) : Except DecodeError Instr :=
  match decodeFrame prm .req bytes with
  | .error e => .error e
  | .ok (code, data) =>
    match cmdOfCode code with
    | some c => .ok (c.instr data)
    | none => .error .unknownOpcode

/-- The response decoder: `decode(RESP, bytes)`, the status named (R67, R94). -/
def decodeResponse (prm : Params) (bytes : List Byte) : Except DecodeError Instr :=
  match decodeFrame prm .resp bytes with
  | .error e => .error e
  | .ok (code, data) =>
    match statusOfCode code with
    | some st => .ok (st.instr data)
    | none => .error .unknownOpcode

/-- The decoder of everything that travels, rejecting by name. -/
def decode (prm : Params) : Code → Except Reject Instr
  | .word cw => (decodeWord prm cw).mapError .illegalWord
  | .request bytes => (decodeRequest prm bytes).mapError .badFrame
  | .response bytes => (decodeResponse prm bytes).mapError .badFrame

/-- `CW = (OP << 12) | (SEL << 8) | IMM` (R72). -/
def packWord (op sel : BitVec 4) (imm : Byte) : ControlWord :=
  op ++ (sel ++ imm)

/-- The encoder (R61, R66, R67, R70, R72). -/
def encode (prm : Params) : Instr → Code
  | .crcInit => .word (packWord 0x1 0 0)
  | .crcUpd imm => .word (packWord 0x2 0 imm)
  | .crcFin => .word (packWord 0x3 0 0)
  | .reqSet sel imm => .word (packWord 0x4 sel imm)
  | .enc => .word (packWord 0x5 0 0)
  | .dec => .word (packWord 0x6 0 0)
  | .cfgSet sel imm => .word (packWord 0x7 sel imm)
  | .txn => .word (packWord 0x8 0 0)
  | .ack => .word (packWord 0x9 0 0)
  | .rd reg => .word (packWord 0xA 0 reg)
  | .ping data => .request (encodeFrame prm 0x01 data)
  | .stop data => .request (encodeFrame prm 0x02 data)
  | .setSpeed data => .request (encodeFrame prm 0x03 data)
  | .getStatus data => .request (encodeFrame prm 0x04 data)
  | .ok data => .response (encodeFrame prm 0x80 data)
  | .errorBadCrc data => .response (encodeFrame prm 0x81 data)
  | .errorUnknownCommand data => .response (encodeFrame prm 0x82 data)
  | .errorBusy data => .response (encodeFrame prm 0x83 data)
  | .errorOutOfRange data => .response (encodeFrame prm 0x84 data)
  | .errorDomain data => .response (encodeFrame prm 0x85 data)
  | .errorBadLength data => .response (encodeFrame prm 0x86 data)

/-- The code an opcode-table word stands for: 16 bits are a control word; longer ones are the bytes of a frame in wire
order, read as one big-endian number (the table's `constraints`), a response when bit 7 of byte 0 is 1 (R65, log 10). -/
def codeOfTableWord (nbits w : Nat) : Code :=
  if nbits ≤ 16 then .word (BitVec.ofNat 16 w)
  else
    let bytes := bytesBE (nbits / 8) w
    if (bytes.getD 0 0).getLsbD 7 then .response bytes else .request bytes

/-- The instruction the decoder reads from an opcode-table word, under this hardware's parameters. -/
def decodeTableWord (nbits w : Nat) : Option Instr :=
  (decode Config.params (codeOfTableWord nbits w)).toOption

end Sys2Proof
end

