-- ==== Sys2Proof/Machine/State.lean ====
section
/-! DEFINITION. The state: the registers of the host instance `H` (`10_state.md` R18 to R28) and of the peripheral
instance `P` (R31 to R36), the parameters (`00_scope.md` R8), the outputs of the control port (`60_exceptions.md` R157),
and the model's own fields that say what the environment does. Plain data throughout. -/

namespace Sys2Proof.Machine

/-- `H.STATE` (R18): the seven states. The value 7 is never held, and has no constructor (log 7). -/
inductive HostState
  | idle
  | sending
  | waiting
  | reading
  | validating
  | done
  | failed
  deriving DecidableEq, Repr

/-- `P.STATE` (R31). -/
inductive PeriphState
  | idle
  | receiving
  | dispatching
  | responding
  deriving DecidableEq, Repr

/-- The acknowledge codes of the control port (R157): ACCEPTED 0, ILLEGAL_CW 1, PORT_BUSY 2; 3 is never given. -/
inductive Ack
  | accepted
  | illegalCw
  | portBusy
  deriving DecidableEq, Repr

/-- What `H` gives back for one control word: the acknowledge code and the read value (R69, R157). -/
structure Reply where
  ack : Ack
  value : Byte
  deriving DecidableEq, Repr

/-- The CLASS field of `H.CAUSE` (R23). -/
inductive CauseClass
  | none
  | bus
  | decode
  | status
  deriving DecidableEq, Repr

/-- The PHASE field of `H.CAUSE` (R23), meaningful when the class is BUS. -/
inductive Phase
  | write
  | read
  deriving DecidableEq, Repr

/-- The registers of `H` (R18 to R27). `DONE_OUT` (R28) is a function of `state`. -/
structure HostRegs where
  state : HostState
  reqCmd : Byte
  reqData : List Byte
  txf : List Byte
  rxf : List Byte
  rxn : BitVec 8
  respValid : Bool
  respStatus : Byte
  respData : List Byte
  cause : Byte
  causeCode : Byte
  crc : Byte
  result : Byte
  periphAddr : BitVec 7
  waitUs : BitVec 16
  waitLat : BitVec 16
  deriving DecidableEq, Repr

/-- The registers of `P` (R31 to R36). -/
structure PeriphRegs where
  state : PeriphState
  rxb : List Byte
  /-- An integer in 0..`P_L + 1` (R32), so no bit vector. -/
  rxn : Nat
  rstatus : Byte
  rdata : List Byte
  txb : List Byte
  txbValid : Bool
  overrun : Bool
  ownAddr : BitVec 7
  deriving DecidableEq, Repr

/-- The own state of the reference stub actuator (R125), which is outside the block (R38). -/
structure StubRegs where
  speed : Byte
  dir : Byte
  deriving DecidableEq, Repr

/-- The model's own record of what R57 speaks of: the frame this transaction's SEND step delivered, and whether `P`
has taken its RESPOND step for it (log 6). -/
inductive Link
  /-- No frame of this transaction awaits a response: none was sent yet, `P` discarded it, it is not whole, or a reset of
  `P` lost it. -/
  | none
  /-- `P` holds the frame and has not yet taken its RESPOND step for it. -/
  | owed
  /-- `P` has taken its RESPOND step for the frame. -/
  | answered
  deriving DecidableEq, Repr

/-- One input, or one choice of the interleaving (R14, R15, R167): `CALLER` writes a control word; `H` is let take its
transaction step; `P` is let take its own step; a reset input is asserted. -/
inductive Event
  | word (cw : ControlWord)
  | host
  | periph
  | resetHost
  | resetPeriph
  | powerOn
  deriving DecidableEq, Repr

/-- The whole machine. -/
structure State where
  /-- The parameters, fixed for a run (R8, R38). -/
  cfg : Params
  /-- The host instance. -/
  h : HostRegs
  /-- The peripheral instance. -/
  p : PeriphRegs
  /-- The reference stub's own state, used when `cfg.actuator` is the stub (R125). -/
  act : StubRegs
  /-- The model's own field (log 6). -/
  link : Link
  /-- The model's own field: the inputs and choices still to come, the next one first (log 1). -/
  inputs : List Event
  /-- The model's own field: answers of `BUS` and `ACT` that the environment has already fixed (log 3). -/
  draws : List Draw
  /-- The model's own field: how many free values have been used (log 3). -/
  drawCount : Nat
  /-- The acknowledges and read values given so far, the first one first (R157, R181). -/
  replies : List Reply
  deriving DecidableEq, Repr

/-- The block never faults or halts: every protocol error is a normal, typed outcome (R13, R148). So no step raises a
fault and this type has no constructor. -/
inductive Fault
  deriving DecidableEq, Repr

/-- The model refusals (R158): the run is outside the spec and has no successor. -/
inductive Refusal
  /-- Raised by an arm of `exec` for an instruction that has no meaning yet. Safe: nothing is claimed of it. -/
  | notModelled (mnemonic : String)
  /-- Raised by the fetch in a configuration outside R9 (R158 (a)). Safe: the spec refuses it too. -/
  | illegalConfiguration
  /-- Raised by a bus read of a length other than `P_L` (R49, R158 (b)), which `H` never issues. Safe. -/
  | readLength
  /-- Raised by the fetch in a state the rules cannot reach (R158 (c)). Safe: the spec refuses it too. -/
  | unreachableState
  deriving DecidableEq, Repr

/-- What the fetch finds for one step: an instruction to run on a state, a step of the block that is no row of the
opcode table and is already taken, or a model refusal. -/
inductive Fetched
  | instr (i : Instr) (s : State)
  | effect (s : State)
  | refusal (r : Refusal)
  deriving DecidableEq, Repr

/-- Reset of `H` (R41). -/
def HostRegs.reset (prm : Params) : HostRegs where
  state := .idle
  reqCmd := 0x00
  reqData := zeros prm.pD
  txf := zeros prm.pL
  rxf := zeros prm.pL
  rxn := 0
  respValid := false
  respStatus := 0x00
  respData := zeros prm.pD
  cause := 0x00
  causeCode := 0x00
  crc := prm.crcInit
  result := 0x00
  periphAddr := 0x00
  waitUs := 0x0000
  waitLat := 0x0000

/-- Reset of `P` (R42). -/
def PeriphRegs.reset (prm : Params) : PeriphRegs where
  state := .idle
  rxb := zeros prm.pL
  rxn := 0
  rstatus := 0x00
  rdata := zeros prm.pD
  txb := zeros prm.pL
  txbValid := false
  overrun := false
  ownAddr := prm.ownAddr

/-- The machine right after reset of both instances, under given parameters, with nothing asked of it yet. -/
def State.resetWith (prm : Params) : State where
  cfg := prm
  h := HostRegs.reset prm
  p := PeriphRegs.reset prm
  act := ⟨0x00, 0x00⟩
  link := .none
  inputs := []
  draws := []
  drawCount := 0
  replies := []

/-- The machine right after power-on reset (R41, R42, R167). -/
def State.reset : State :=
  State.resetWith Config.params

end Sys2Proof.Machine
end

