-- ==== Sys2Proof/Machine/Flags.lean ====
section
/-! DEFINITION. Flags, encodings of states and causes, and the conditions that enable a step. -/

namespace Sys2Proof.Machine

/-- The encoding of `H.STATE` (R18). -/
def hostStateCode : HostState → BitVec 3
  | .idle => 0
  | .sending => 1
  | .waiting => 2
  | .reading => 3
  | .validating => 4
  | .done => 5
  | .failed => 6

/-- The encoding of `P.STATE` (R31). -/
def periphStateCode : PeriphState → BitVec 2
  | .idle => 0
  | .receiving => 1
  | .dispatching => 2
  | .responding => 3

/-- The encoding of the acknowledge (R157). -/
def ackCode : Ack → BitVec 2
  | .accepted => 0
  | .illegalCw => 1
  | .portBusy => 2

/-- `DONE_OUT` (R28): 1 exactly in DONE and FAILED. -/
def doneOut (h : HostRegs) : Bool :=
  match h.state with
  | .done => true
  | .failed => true
  | _ => false

/-- A 1-bit register zero-extended to 8 bits (R29). -/
def bitByte (b : Bool) : Byte :=
  if b then 1 else 0

/-- A transaction is in flight: `H.STATE` is SENDING, WAITING, READING or VALIDATING (R157). -/
def inFlight (h : HostRegs) : Bool :=
  match h.state with
  | .sending => true
  | .waiting => true
  | .reading => true
  | .validating => true
  | _ => false

/-- CLASS as a number (R23). -/
def classCode : CauseClass → Byte
  | .none => 0
  | .bus => 1
  | .decode => 2
  | .status => 3

/-- PHASE as a number; 0 unless the class is BUS (R23, R153). -/
def phaseCode : CauseClass → Phase → Byte
  | .bus, .read => 1
  | _, _ => 0

/-- `H.CAUSE` of a failure: `(CLASS << 6) | (PHASE << 5)` (R153). -/
def causeByte (cls : CauseClass) (ph : Phase) : Byte :=
  (classCode cls <<< 6) ||| (phaseCode cls ph <<< 5)

/-- The reserved bits 4:0 of `H.CAUSE` (R23). -/
def causeReserved (cause : Byte) : Byte :=
  cause &&& 0x1F

/-- `BusError` codes in `H.CAUSE_CODE` (R149). -/
def busErrorCode : BusError → Byte
  | .noResponse => 0x01
  | .shortRead => 0x02
  | .addressNack => 0x03
  | .timeout => 0x04
  | .other => 0x05

/-- `DecodeError` codes in `H.CAUSE_CODE` and `H.RESULT` (R150). -/
def decodeErrorCode : DecodeError → Byte
  | .lengthMismatch => 0x01
  | .badChecksum => 0x02
  | .unknownOpcode => 0x03

/-- `P`'s status for a decode error (R121, R150). -/
def decodeErrorStatus : DecodeError → Status
  | .lengthMismatch => .errorBadLength
  | .badChecksum => .errorBadCrc
  | .unknownOpcode => .errorUnknownCommand

/-- `P` can take in bytes: IDLE or RECEIVING; in DISPATCHING and RESPONDING the dispatch loop owns the buffer (R119). -/
def periphListening (p : PeriphRegs) : Bool :=
  match p.state with
  | .idle => true
  | .receiving => true
  | _ => false

/-- The peripheral's transmit buffer is settled (R53). -/
def settled (p : PeriphRegs) : Bool :=
  p.txbValid && periphListening p

/-- `P` has a step of its own enabled: DISPATCH or RESPOND (R120, R126). -/
def periphEnabled (s : State) : Bool :=
  match s.p.state with
  | .dispatching => true
  | .responding => true
  | _ => false

/-- The READ step is enabled: always in READING without `DELAY_SUFFICIENT`; with it, once `P` is back in IDLE or
RECEIVING and owes this transaction no response (R57, R135). Where the SEND step gave `P` no frame to answer, or `P` lost
it, there is no RESPOND step to wait for: R140 and R180 have READ enabled in the end, and R174 has the read of a discarded
write follow (log 6). -/
def readEnabled (s : State) : Bool :=
  !s.cfg.delaySufficient || (decide (s.link ≠ .owed) && periphListening s.p)

/-- `H` has a transaction step enabled (R131, R133 to R136). -/
def hostEnabled (s : State) : Bool :=
  match s.h.state with
  | .sending => true
  | .waiting => true
  | .reading => readEnabled s
  | .validating => true
  | _ => false

/-- A state the rules cannot reach (R158 (c)): a reserved `CAUSE` bit set, or `P.RXN > P_L + 1`. The third one named
there, `H.STATE = 7`, has no representation. -/
def unreachableState (s : State) : Bool :=
  decide (causeReserved s.h.cause ≠ 0) || decide (s.cfg.pL + 1 < s.p.rxn)

end Sys2Proof.Machine
end

