-- ==== Sys2Proof/Machine/Ops.lean ====
section
/-! DEFINITION. The shared operations on registers: the control port's answer (R157), the register map (R29), the
response registers (R22), FAILED entry (R153) and the return from it (R155), and the draws. -/

namespace Sys2Proof.Machine

/-- The outcome type of `exec` and `step`. -/
abbrev Result := Host.Outcome State Fault Refusal

/-- Give `CALLER` the acknowledge and the read value of a control word (R157). -/
def reply (ack : Ack) (value : Byte) (s : State) : State :=
  { s with replies := s.replies ++ [⟨ack, value⟩] }

/-- The acceptance check of every control word but `RD`, in R157's order, then the operation's own rule. -/
def portOp (legal : Bool) (effect : State → State) (s : State) : Result :=
  if !legal then .next (reply .illegalCw 0x00 s)
  else if inFlight s.h then .next (reply .portBusy 0x00 s)
  else .next (reply .accepted 0x00 (effect s))

/-- The acceptance check of `RD`, which is never PORT_BUSY (R157). -/
def portRead (legal : Bool) (value : Byte) (s : State) : Result :=
  if !legal then .next (reply .illegalCw 0x00 s)
  else .next (reply .accepted value s)

/-- The value of a mapped register, zero-extended to 8 bits (R29, R145). An unmapped number is never read. -/
def regRead (prm : Params) (h : HostRegs) (n : Byte) : Byte :=
  match n.toNat with
  | 0x00 => (hostStateCode h.state).zeroExtend 8
  | 0x01 => h.cause
  | 0x02 => h.causeCode
  | 0x03 => bitByte h.respValid
  | 0x04 => h.respStatus
  | 0x05 => h.rxn
  | 0x06 => h.crc
  | 0x07 => h.result
  | 0x08 => h.periphAddr.zeroExtend 8
  | 0x09 => h.waitUs.extractLsb' 0 8
  | 0x0A => h.waitUs.extractLsb' 8 8
  | 0x0B => h.waitLat.extractLsb' 0 8
  | 0x0C => h.waitLat.extractLsb' 8 8
  | 0x0D => bitByte (doneOut h)
  | 0x10 => h.reqCmd
  | k =>
    if k < 0x20 then h.reqData.getD (k - 0x11) 0
    else if k < 0x20 + prm.pL then h.txf.getD (k - 0x20) 0
    else if k < 0x30 + prm.pL then h.rxf.getD (k - 0x30) 0
    else h.respData.getD (k - 0x40) 0

/-- `H.STATE <- st`. -/
def setHostState (st : HostState) (s : State) : State :=
  { s with h := { s.h with state := st } }

/-- `P.STATE <- st`. -/
def setPeriphState (st : PeriphState) (s : State) : State :=
  { s with p := { s.p with state := st } }

/-- `RESP_VALID <- 1` with a decoded response (R22). -/
def keepResponse (status : Byte) (data : List Byte) (s : State) : State :=
  { s with h := { s.h with respValid := true, respStatus := status, respData := data } }

/-- `RESP_VALID <- 0`; the status and every data byte are 0x00 (R22). -/
def clearResponse (s : State) : State :=
  { s with h := { s.h with respValid := false, respStatus := 0x00, respData := zeros s.cfg.pD } }

/-- `H.RXF[*] <- 0x00; H.RXN <- 0` (R21, R132, R135). -/
def clearReadBuffer (s : State) : State :=
  { s with h := { s.h with rxf := zeros s.cfg.pL, rxn := 0 } }

/-- `H.CAUSE <- 0x00; H.CAUSE_CODE <- 0x00` (R23, R132). -/
def clearCause (s : State) : State :=
  { s with h := { s.h with cause := 0x00, causeCode := 0x00 } }

/-- The valid bytes of the read buffer, `H.RXF[0 .. H.RXN-1]` (R101, R136). -/
def readBytes (h : HostRegs) : List Byte :=
  h.rxf.take h.rxn.toNat

/-- `H.TXF <- encode(H.REQ_CMD, H.REQ_DATA)` (R100, R132). -/
def encodeRequest (s : State) : State :=
  { s with h := { s.h with txf := encodeFrame s.cfg s.h.reqCmd s.h.reqData } }

/-- FAILED entry (R153), the block's trap entry: the two cause registers and `H.STATE`, nothing else. -/
def failedEntry (cls : CauseClass) (ph : Phase) (code : Byte) (s : State) : State :=
  { s with h := { s.h with cause := causeByte cls ph, causeCode := code, state := .failed } }

/-- The return from FAILED or DONE (R142, R155): IDLE, with the cause and the response kept. -/
def returnToIdle (s : State) : State :=
  setHostState .idle s

/-- Take one draw: the answer the environment has fixed, or else a free value (log 3). -/
def takeDraw (s : State) : Draw × State :=
  match s.draws with
  | d :: rest => (d, { s with draws := rest })
  | [] => (Config.freeDraw s.drawCount, { s with drawCount := s.drawCount + 1 })

end Sys2Proof.Machine
end

