-- ==== Sys2Proof/Machine/Codec.lean ====
section
/-! DEFINITION. The control-port operations of the codec: `41_frame_codec.md` R100 and R101. -/

namespace Sys2Proof.Machine

/-- `ENC` (R100): `H.TXF <- encode(H.REQ_CMD, H.REQ_DATA)`. -/
def execEnc (s : State) : Result :=
  portOp true encodeRequest s

/-- `H.RESULT <- v`. -/
def setResult (v : Byte) (s : State) : State :=
  { s with h := { s.h with result := v } }

/-- `DEC`'s rule (R101): the response registers and `H.RESULT` from the valid bytes of the read buffer. -/
def decodeReadBuffer (s : State) : State :=
  match decodeFrame s.cfg .resp (readBytes s.h) with
  | .ok (status, data) => setResult 0x00 (keepResponse status data s)
  | .error e => setResult (decodeErrorCode e) (clearResponse s)

/-- `DEC` (R101). -/
def execDec (s : State) : Result :=
  portOp true decodeReadBuffer s

end Sys2Proof.Machine
end

