-- ==== Sys2Proof/Machine/Control.lean ====
section
/-! DEFINITION. The other host control operations: `TXN` R132, `ACK` R142, `REQ.SET` R143, `CFG.SET` R144, `RD` R145. -/

namespace Sys2Proof.Machine

/-- `REQ.SET`'s rule (R143). -/
def setRequest (sel : BitVec 4) (imm : Byte) (s : State) : State :=
  if sel = 0 then { s with h := { s.h with reqCmd := imm } }
  else { s with h := { s.h with reqData := s.h.reqData.set (sel.toNat - 1) imm } }

/-- `REQ.SET sel, imm8` (R143). -/
def execReqSet (sel : BitVec 4) (imm : Byte) (s : State) : Result :=
  portOp (reqSelLegal s.cfg sel) (setRequest sel imm) s

/-- `CFG.SET`'s rule (R144): the address, the low half or the high half of the delay. -/
def setConfig (sel : BitVec 4) (imm : Byte) (s : State) : State :=
  match sel.toNat with
  | 0 => { s with h := { s.h with periphAddr := imm.extractLsb' 0 7 } }
  | 1 => { s with h := { s.h with waitUs := s.h.waitUs.extractLsb' 8 8 ++ imm } }
  | _ => { s with h := { s.h with waitUs := imm ++ s.h.waitUs.extractLsb' 0 8 } }

/-- `CFG.SET sel, imm8` (R144). -/
def execCfgSet (sel : BitVec 4) (imm : Byte) (s : State) : Result :=
  portOp (cfgSelLegal sel && cfgImmLegal sel imm) (setConfig sel imm) s

/-- `TXN`'s rule (R132). The model's `link` forgets the frame of an earlier transaction (log 6). -/
def startTransaction (s : State) : State :=
  setHostState .sending (encodeRequest (clearReadBuffer (clearResponse (clearCause
    { s with h := { s.h with waitLat := s.h.waitUs }, link := .none }))))

/-- `TXN` (R132). -/
def execTxn (s : State) : Result :=
  portOp true startTransaction s

/-- `ACK` (R142): `H.STATE <- IDLE`. -/
def execAck (s : State) : Result :=
  portOp true returnToIdle s

/-- `RD regnum` (R145). -/
def execRd (reg : Byte) (s : State) : Result :=
  portRead (regMapped s.cfg reg) (regRead s.cfg s.h reg) s

end Sys2Proof.Machine
end

