-- ==== Sys2Proof/Machine/Crc.lean ====
section
/-! DEFINITION. The control-port operations of the checksum engine: `40_checksum.md` R87 to R89. -/

namespace Sys2Proof.Machine

/-- `CRC.INIT` (R87): `H.CRC <- CRC_INIT`. -/
def execCrcInit (s : State) : Result :=
  portOp true (fun s => { s with h := { s.h with crc := s.cfg.crcInit } }) s

/-- `CRC.UPD imm8` (R88): `H.CRC <- T[H.CRC XOR IMM]`. -/
def execCrcUpd (imm : Byte) (s : State) : Result :=
  portOp true (fun s => { s with h := { s.h with crc := crcUpdate s.cfg s.h.crc imm } }) s

/-- `CRC.FIN` (R89): `H.RESULT <- H.CRC XOR CRC_XOROUT`; `H.CRC` is unchanged. -/
def execCrcFin (s : State) : Result :=
  portOp true (fun s => { s with h := { s.h with result := s.h.crc ^^^ s.cfg.crcXorout } }) s

end Sys2Proof.Machine
end

