-- ==== Sys2Proof/Machine/Vocabulary.lean ====
section
/-! DEFINITION. The command and response vocabulary (VOC, `42_vocabulary.md`) and the shared parts of `P`'s dispatch
(`43_peripheral_dispatch.md` R120 to R125) and `H`'s validation of a response (`44_host_transaction.md` R136). -/

namespace Sys2Proof.Machine

/-- `DIR_SET` (R8): the legal `dir` values. -/
def dirLegal (dir : Byte) : Bool :=
  decide (dir = 0) || decide (dir = 1)

/-- `valid_args(c, d)` (R103): unsigned comparisons, no clamping (R104), unused bytes not checked (R109). -/
def validArgs (prm : Params) (c : Cmd) (data : List Byte) : Bool :=
  match c with
  | .ping => true
  | .stop => true
  | .getStatus => true
  | .setSpeed => decide ((speedOf data).toNat ≤ prm.speedMax) && dirLegal (dirOf data)

/-- `OK` is the only OK-class status (R111). -/
def okClass (st : Status) : Bool :=
  decide (st = .ok)

/-- Each command's intended status subset (R105 to R108), part of the actuator's contract and enforced by nobody
(R112). The three decode-failure statuses answer any request and stand outside it (R110). -/
def statusSubset : Cmd → List Status
  | .ping => [.ok]
  | .stop => [.ok, .errorBusy, .errorDomain]
  | .setSpeed => [.ok, .errorOutOfRange, .errorBusy, .errorDomain]
  | .getStatus => [.ok, .errorBusy]

/-- The reference stub's answer (R125). -/
def stubAnswer (a : StubRegs) (c : Cmd) (data : List Byte) : ActAnswer :=
  match c with
  | .ping => .ok [0x00, 0x00]
  | .stop => .ok [0x00, 0x00]
  | .setSpeed => .ok [speedOf data, dirOf data]
  | .getStatus => .ok [a.speed, a.dir]

/-- The reference stub's effect on its own state (R125). -/
def stubEffect (a : StubRegs) (c : Cmd) (data : List Byte) : StubRegs :=
  match c with
  | .ping => a
  | .stop => { a with speed := 0x00 }
  | .setSpeed => { speed := speedOf data, dir := dirOf data }
  | .getStatus => a

/-- `Invoke(c, d)` (R124): the stub's answer, or a draw. It changes no state of `H` or `P`. -/
def invoke (c : Cmd) (data : List Byte) (s : State) : ActAnswer × State :=
  match s.cfg.actuator with
  | .stub => (stubAnswer s.act c data, { s with act := stubEffect s.act c data })
  | .oracle => ((takeDraw s).1.answer, (takeDraw s).2)

/-- The status an actuator outcome is translated to (R123). -/
def answerStatus : ActAnswer → Status
  | .ok _ => .ok
  | .domainError => .errorDomain
  | .pending => .errorBusy

/-- The data bytes an actuator outcome is translated to: `P_D` bytes, all 0x00 unless it is `Ok` (R123, R124). -/
def answerData (prm : Params) : ActAnswer → List Byte
  | .ok rd => fitTo prm.pD rd
  | .domainError => zeros prm.pD
  | .pending => zeros prm.pD

/-- The DISPATCH step's last action: the response it chose, and RESPONDING (R120). -/
def chooseResponse (st : Status) (data : List Byte) (s : State) : State :=
  { s with p := { s.p with rstatus := statusCode st, rdata := data, state := .responding } }

/-- Answer a frame that did not decode (R121): no `Invoke`, zero data. -/
def refuseFrame (e : DecodeError) (s : State) : State :=
  chooseResponse (decodeErrorStatus e) (zeros s.cfg.pD) s

/-- Invoke the actuator and translate its outcome (R123). -/
def actOn (c : Cmd) (data : List Byte) (s : State) : State :=
  chooseResponse (answerStatus (invoke c data s).1) (answerData s.cfg (invoke c data s).1) (invoke c data s).2

/-- The DISPATCH step on a decoded command (R120, R122, R123). It is enabled exactly in DISPATCHING, and a frame of
another length than `P_L` is a LengthMismatch (R94, R121). -/
def dispatchCommand (c : Cmd) (data : List Byte) (s : State) : State :=
  if s.p.state ≠ .dispatching then s
  else if data.length ≠ s.cfg.pD then refuseFrame .lengthMismatch s
  else if validArgs s.cfg c data then actOn c data s
  else chooseResponse .errorOutOfRange (zeros s.cfg.pD) s

/-- The VALIDATE step on a response that did not decode (R136). -/
def refuseResponse (e : DecodeError) (s : State) : State :=
  failedEntry .decode .write (decodeErrorCode e) s

/-- The VALIDATE step on a decoded response (R136, R152): it is enabled exactly in VALIDATING; DONE for an OK-class
status, FAILED entry of class STATUS for every other. -/
def validateStatus (st : Status) (data : List Byte) (s : State) : State :=
  if s.h.state ≠ .validating then s
  else if data.length ≠ s.cfg.pD then refuseResponse .lengthMismatch s
  else if okClass st then setHostState .done (keepResponse (statusCode st) data s)
  else failedEntry .status .write (statusCode st) (keepResponse (statusCode st) data s)

end Sys2Proof.Machine
end

