-- ==== Sys2Proof/Machine/Requests.lean ====
section
/-! DEFINITION. The request commands, executed by `P` in its DISPATCH step: `42_vocabulary.md` R105 to R108. -/

namespace Sys2Proof.Machine

/-- `PING` (R105): no operand; `Invoke(PING, d)`. -/
def execPing (data : List Byte) (s : State) : Result :=
  .next (dispatchCommand .ping data s)

/-- `STOP` (R106): no operand; `Invoke(STOP, d)`. -/
def execStop (data : List Byte) (s : State) : Result :=
  .next (dispatchCommand .stop data s)

/-- `SET_SPEED` (R107): `speed` and `dir` checked, then `Invoke(SET_SPEED, d)`. -/
def execSetSpeed (data : List Byte) (s : State) : Result :=
  .next (dispatchCommand .setSpeed data s)

/-- `GET_STATUS` (R108): no operand; `Invoke(GET_STATUS, d)`. -/
def execGetStatus (data : List Byte) (s : State) : Result :=
  .next (dispatchCommand .getStatus data s)

end Sys2Proof.Machine
end

