-- ==== Sys2Proof/Machine/Responses.lean ====
section
/-! DEFINITION. The response statuses, executed by `H` in its VALIDATE step: `42_vocabulary.md` R110 and R111,
`44_host_transaction.md` R136, `60_exceptions.md` R152. -/

namespace Sys2Proof.Machine

/-- `OK` (0x80): the one OK-class status, DONE. -/
def execOk (data : List Byte) (s : State) : Result :=
  .next (validateStatus .ok data s)

/-- `ERROR_BAD_CRC` (0x81): the request failed its checksum at `P`. -/
def execErrorBadCrc (data : List Byte) (s : State) : Result :=
  .next (validateStatus .errorBadCrc data s)

/-- `ERROR_UNKNOWN_COMMAND` (0x82): the request's code byte is no command. -/
def execErrorUnknownCommand (data : List Byte) (s : State) : Result :=
  .next (validateStatus .errorUnknownCommand data s)

/-- `ERROR_BUSY` (0x83): the action is pending; failure-class (R111). -/
def execErrorBusy (data : List Byte) (s : State) : Result :=
  .next (validateStatus .errorBusy data s)

/-- `ERROR_OUT_OF_RANGE` (0x84): an argument out of range. -/
def execErrorOutOfRange (data : List Byte) (s : State) : Result :=
  .next (validateStatus .errorOutOfRange data s)

/-- `ERROR_DOMAIN` (0x85): the actuator refused the arguments (R151). -/
def execErrorDomain (data : List Byte) (s : State) : Result :=
  .next (validateStatus .errorDomain data s)

/-- `ERROR_BAD_LENGTH` (0x86): the request had another length than `P_L`. -/
def execErrorBadLength (data : List Byte) (s : State) : Result :=
  .next (validateStatus .errorBadLength data s)

end Sys2Proof.Machine
end

