-- ==== Sys2Proof/Machine/Dispatch.lean ====
section
/-! DEFINITION. The dispatch: one arm per instruction, each one direct call of its meaning. -/

namespace Sys2Proof.Machine

def exec (i : Instr) (s : State) : Host.Outcome State Fault Refusal :=
  match i with
  | .crcInit => Sys2Proof.Machine.execCrcInit s
  | .crcUpd imm => Sys2Proof.Machine.execCrcUpd imm s
  | .crcFin => Sys2Proof.Machine.execCrcFin s
  | .reqSet sel imm => Sys2Proof.Machine.execReqSet sel imm s
  | .enc => Sys2Proof.Machine.execEnc s
  | .dec => Sys2Proof.Machine.execDec s
  | .cfgSet sel imm => Sys2Proof.Machine.execCfgSet sel imm s
  | .txn => Sys2Proof.Machine.execTxn s
  | .ack => Sys2Proof.Machine.execAck s
  | .rd reg => Sys2Proof.Machine.execRd reg s
  | .ping data => Sys2Proof.Machine.execPing data s
  | .stop data => Sys2Proof.Machine.execStop data s
  | .setSpeed data => Sys2Proof.Machine.execSetSpeed data s
  | .getStatus data => Sys2Proof.Machine.execGetStatus data s
  | .ok data => Sys2Proof.Machine.execOk data s
  | .errorBadCrc data => Sys2Proof.Machine.execErrorBadCrc data s
  | .errorUnknownCommand data => Sys2Proof.Machine.execErrorUnknownCommand data s
  | .errorBusy data => Sys2Proof.Machine.execErrorBusy data s
  | .errorOutOfRange data => Sys2Proof.Machine.execErrorOutOfRange data s
  | .errorDomain data => Sys2Proof.Machine.execErrorDomain data s
  | .errorBadLength data => Sys2Proof.Machine.execErrorBadLength data s

end Sys2Proof.Machine
end

