-- ==== Sys2Proof/Machine/Bus.lean ====
section
/-! DEFINITION. The bus primitives (`20_memory.md` R52, R53) and `P`'s receive events
(`43_peripheral_dispatch.md` R114 to R119). -/

namespace Sys2Proof.Machine

/-- Store one received byte (R116): never past `P_L`, the count stopping at `P_L + 1`. -/
def storeByte (prm : Params) (p : PeriphRegs) (b : Byte) : PeriphRegs :=
  if p.rxn < prm.pL then { p with rxb := p.rxb.set p.rxn b, rxn := p.rxn + 1 }
  else { p with rxn := prm.pL + 1 }

/-- Store received bytes in order (R116). -/
def storeBytes (prm : Params) (p : PeriphRegs) (bytes : List Byte) : PeriphRegs :=
  bytes.foldl (storeByte prm) p

/-- The end check after storing (R117, R118). -/
def endCheck (prm : Params) (last : Bool) (p : PeriphRegs) : PeriphRegs :=
  if (if prm.partialDelivery then decide (prm.pL ≤ p.rxn) else last) then
    { p with state := .dispatching }
  else p

/-- `P` handles a receive event `RX(bytes, last)` by its state (R114 to R119). -/
def receive (prm : Params) (p : PeriphRegs) (bytes : List Byte) (last : Bool) : PeriphRegs :=
  match p.state with
  | .idle => endCheck prm last (storeBytes prm { p with rxn := 0, state := .receiving } bytes)
  | .receiving => endCheck prm last (storeBytes prm p bytes)
  | .dispatching => { p with overrun := true }
  | .responding => { p with overrun := true }

/-- The chunks of one write under `PARTIAL_DELIVERY`, in order, each with its `last` flag (R52): a draw of lengths gives
every split, empty chunks among them. -/
def chunksOf : List Nat → List Byte → List (List Byte × Bool)
  | [], bytes => [(bytes, true)]
  | n :: rest, bytes => (bytes.take n, false) :: chunksOf rest (bytes.drop n)

/-- The receive events of one delivered write (R52's `deliver`). -/
def eventsOf (prm : Params) (cuts : List Nat) (bytes : List Byte) : List (List Byte × Bool) :=
  if prm.partialDelivery then chunksOf cuts bytes else [(bytes, true)]

/-- `P` handles the receive events of one write, in order. -/
def receiveAll (prm : Params) (p : PeriphRegs) (events : List (List Byte × Bool)) : PeriphRegs :=
  events.foldl (fun p e => receive prm p e.1 e.2) p

/-- Whether a write that found `P` as `before` and left it as `after` gave it a frame to answer (R57, log 6): bytes that
a busy `P` discards are no frame (R119), and bytes after which `P` still misses some are none yet (R118). -/
def linkOf (before after : PeriphRegs) : Link :=
  if periphListening before && !periphListening after then .owed else .none

/-- `P` handles the receive events of one write, all inside `H`'s SEND step (R50 (a), R52). The model's `link` records
whether this write gave `P` a frame it will answer (log 6). -/
def deliver (cuts : List Nat) (bytes : List Byte) (s : State) : State :=
  { s with
    p := receiveAll s.cfg s.p (eventsOf s.cfg cuts bytes)
    link := linkOf s.p (receiveAll s.cfg s.p (eventsOf s.cfg cuts bytes)) }

/-- `BusWrite` on a noisy bus: any bytes or none reach `P`, and any outcome is reported (R52, I3). -/
def noisyWrite (d : Draw) (s : State) : Option BusError × State :=
  (d.error, if d.delivers then deliver d.cuts d.bytes s else s)

/-- `BusWrite(addr, bytes)` (R52): `none` is `Ok`, `some k` is `Err(k)`. -/
def busWrite (addr : BitVec 7) (bytes : List Byte) (s : State) : Option BusError × State :=
  if s.cfg.busNoise then noisyWrite (takeDraw s).1 (takeDraw s).2
  else if addr ≠ s.p.ownAddr then (some .addressNack, s)
  else if s.cfg.partialDelivery then (none, deliver (takeDraw s).1.cuts bytes (takeDraw s).2)
  else (none, deliver [] bytes s)

/-- A read outcome that is a draw: any bytes of the length asked for, or any error (R53, I1, I2). -/
def drawnRead (n : Nat) (d : Draw) : Except BusError (List Byte) :=
  match d.error with
  | none => .ok (fitTo n d.bytes)
  | some k => .error k

/-- `BusRead(addr, n)` (R53). It changes no state of `P` (R51). -/
def busRead (addr : BitVec 7) (n : Nat) (s : State) : Except BusError (List Byte) × State :=
  if s.cfg.busNoise then (drawnRead n (takeDraw s).1, (takeDraw s).2)
  else if addr ≠ s.p.ownAddr then (.error .addressNack, s)
  else if settled s.p then (.ok s.p.txb, s)
  else (drawnRead n (takeDraw s).1, (takeDraw s).2)

end Sys2Proof.Machine
end

