-- ==== Sys2Proof/Machine/Transaction.lean ====
section
/-! DEFINITION. The steps that are no row of the opcode table: `H`'s SEND, WAIT and READ (`44_host_transaction.md`
R133 to R135), `P`'s RESPOND (`43_peripheral_dispatch.md` R126), the resets (`70_reset_and_hazards.md` R167), and what
the VALIDATE and DISPATCH steps decode. -/

namespace Sys2Proof.Machine

/-- What the SEND step does with the outcome of its write (R133). -/
def afterWrite (r : Option BusError) (s : State) : State :=
  match r with
  | none => setHostState .waiting s
  | some k => failedEntry .bus .write (busErrorCode k) s

/-- The SEND step (R133). -/
def sendStep (s : State) : State :=
  afterWrite (busWrite s.h.periphAddr s.h.txf s).1 (busWrite s.h.periphAddr s.h.txf s).2

/-- The WAIT step (R134): the model has no time, and the step orders nothing (R56). -/
def waitStep (s : State) : State :=
  setHostState .reading s

/-- What the READ step does with the outcome of its read (R135). -/
def afterRead (r : Except BusError (List Byte)) (s : State) : State :=
  match r with
  | .ok bytes =>
    { s with h := { s.h with rxf := bytes, rxn := BitVec.ofNat 8 s.cfg.pL, state := .validating } }
  | .error k => failedEntry .bus .read (busErrorCode k) (clearReadBuffer s)

/-- The READ step with the length `n` it asks for: any length other than `P_L` is refused (R49, R158 (b)). -/
def readStepOf (n : Nat) (s : State) : Fetched :=
  if n ≠ s.cfg.pL then .refusal .readLength
  else .effect (afterRead (busRead s.h.periphAddr n s).1 (busRead s.h.periphAddr n s).2)

/-- The READ step (R135): exactly one frame's worth of bytes. -/
def readStep (s : State) : Fetched :=
  readStepOf s.cfg.pL s

/-- The VALIDATE step (R136): the response instruction it decodes, or the FAILED entry of class DECODE. -/
def validateStep (s : State) : Fetched :=
  match decodeResponse s.cfg (readBytes s.h) with
  | .ok i => .instr i s
  | .error e => .effect (refuseResponse e s)

/-- The decoding of the DISPATCH step (R121): the received bytes; on overflow some sequence of `P_L + 1` bytes, of which
only the length matters (I6). -/
def decodeReceived (prm : Params) (p : PeriphRegs) : Except DecodeError Instr :=
  if p.rxn ≤ prm.pL then decodeRequest prm (p.rxb.take p.rxn)
  else .error .lengthMismatch

/-- The DISPATCH step (R120): the request instruction it decodes, or the error response of R121. -/
def dispatchStep (s : State) : Fetched :=
  match decodeReceived s.cfg s.p with
  | .ok i => .instr i s
  | .error e => .effect (refuseFrame e s)

/-- The RESPOND step for the frame this transaction delivered settles R57's condition (log 6). -/
def linkAnswered : Link → Link
  | .owed => .answered
  | l => l

/-- The RESPOND step (R126): the commit of all `P_L` bytes at once. -/
def respondStep (s : State) : State :=
  { s with
    p := { s.p with txb := encodeFrame s.cfg s.p.rstatus s.p.rdata, txbValid := true, state := .idle }
    link := linkAnswered s.link }

/-- Reset of `H` (R41, R167): nothing of `P`, `ACT` or `BUS` changes. The transaction, if any, is abandoned (R168). -/
def resetHost (s : State) : State :=
  { s with h := HostRegs.reset s.cfg, link := .none }

/-- A frame `P` holds is lost by its reset (R168 (b)); a response it has committed for was given (log 6). -/
def linkLost : Link → Link
  | .owed => .none
  | l => l

/-- Reset of `P` (R42, R167): nothing of `H`, `ACT` or `BUS` changes. -/
def resetPeriph (s : State) : State :=
  { s with p := PeriphRegs.reset s.cfg, link := linkLost s.link }

end Sys2Proof.Machine
end

