-- ==== Sys2Proof/Machine/Fetch.lean ====
section
/-! DEFINITION. What one step does: the next input or choice (`00_scope.md` R15, `60_exceptions.md` R159), the
instruction it brings, and where an instruction is placed so that the next step runs it. -/

namespace Sys2Proof.Machine

/-- A control word at the port (R157): the instruction it decodes to, or ILLEGAL_CW with no other effect (R71). -/
def fetchWord (cw : ControlWord) (s : State) : Fetched :=
  match decodeWord s.cfg cw with
  | .ok i => .instr i s
  | .error _ => .effect (reply .illegalCw 0x00 s)

/-- `H` is let take its transaction step (R133 to R136); with none enabled nothing happens (R153, log 8). -/
def fetchHost (s : State) : Fetched :=
  match s.h.state with
  | .sending => .effect (sendStep s)
  | .waiting => .effect (waitStep s)
  | .reading => if readEnabled s then readStep s else .effect s
  | .validating => validateStep s
  | .idle => .effect s
  | .done => .effect s
  | .failed => .effect s

/-- `P` is let take its own step (R120, R126); with none enabled nothing happens (log 8). -/
def fetchPeriph (s : State) : Fetched :=
  match s.p.state with
  | .dispatching => dispatchStep s
  | .responding => .effect (respondStep s)
  | .idle => .effect s
  | .receiving => .effect s

/-- No input is left: the enabled steps of `H` and `P` go on, in an order nothing fixes when both have one (R159,
R180, log 2). With none enabled the run has ended (R181) and nothing changes. -/
def fetchFree (s : State) : Fetched :=
  if hostEnabled s then
    if periphEnabled s then
      if (takeDraw s).1.hostFirst then fetchHost (takeDraw s).2 else fetchPeriph (takeDraw s).2
    else fetchHost s
  else if periphEnabled s then fetchPeriph s
  else .effect s

/-- One input or choice, already taken off the queue (R15, R167). -/
def fetchEvent (e : Event) (s : State) : Fetched :=
  match e with
  | .word cw => fetchWord cw s
  | .host => fetchHost s
  | .periph => fetchPeriph s
  | .resetHost => .effect (resetHost s)
  | .resetPeriph => .effect (resetPeriph s)
  | .powerOn => .effect (resetPeriph (resetHost s))

/-- What the next step does: the refusals of R158 (a) and (c), then the next input. -/
def fetch (s : State) : Fetched :=
  if !legalParams s.cfg then .refusal .illegalConfiguration
  else if unreachableState s then .refusal .unreachableState
  else
    match s.inputs with
    | e :: rest => fetchEvent e { s with inputs := rest }
    | [] => fetchFree s

/-- Place a code where the next step finds it (log 4): a control word is the next input; a request frame is received by
`P`, which is let move; a response frame has been read by `H`, which is let move. -/
def placeCode (c : Code) (s : State) : State :=
  match c with
  | .word cw => { s with inputs := .word cw :: s.inputs }
  | .request bytes =>
    { s with
      p := { storeBytes s.cfg { s.p with rxn := 0 } bytes with state := .dispatching }
      inputs := .periph :: s.inputs }
  | .response bytes =>
    { s with
      h := { s.h with rxf := fitTo s.cfg.pL bytes, rxn := BitVec.ofNat 8 s.cfg.pL, state := .validating }
      inputs := .host :: s.inputs }

end Sys2Proof.Machine
end

