-- ==== Sys2Proof/Machine/Step.lean ====
section
/-! DEFINITION. The step: fetch, then run. -/

namespace Sys2Proof.Machine

/-- One step of the machine (R15): one rule applied atomically. -/
def step (s : State) : Host.Outcome State Fault Refusal :=
  match fetch s with
  | .instr i t => exec i t
  | .effect t => .next t
  | .refusal r => .refused r

/-- The opcode-table word `w` placed so that the very next step runs it (log 4, log 10). -/
def State.withFetchWord (s : State) (nbits w : Nat) : State :=
  placeCode (codeOfTableWord nbits w) s

end Sys2Proof.Machine
end

