-- ==== Sys2Proof/Machine/Assembler.lean ====
section
/-! DEFINITION. The assembler syntax (`30_encoding.md` R73) and the pseudo-instructions (R74), each a fixed sequence of
control words. `WAITDONE` is a loop in `CALLER` and has no expansion. Choices R73 leaves open are in log 18. -/

namespace Sys2Proof.Machine

/-- `REQ cmd, d0, ..., dk` (R74): every payload byte written, a data byte not given as 0. -/
def expandReq (prm : Params) (cmd : Byte) (data : List Byte) : List ControlWord :=
  packWord 0x4 0 cmd ::
    (List.range prm.pD).map fun i => packWord 0x4 (BitVec.ofNat 4 (i + 1)) (data.getD i 0)

/-- `TRANSACT cmd, d0, ..., dk` (R74). -/
def expandTransact (prm : Params) (cmd : Byte) (data : List Byte) : List ControlWord :=
  expandReq prm cmd data ++ [packWord 0x8 0 0]

/-- `CFG.ADDR a` (R74). -/
def expandCfgAddr (a : Byte) : List ControlWord :=
  [packWord 0x7 0 a]

/-- `CFG.WAIT us` (R74): the low half, then the high half. -/
def expandCfgWait (us : BitVec 16) : List ControlWord :=
  [packWord 0x7 1 (us.extractLsb' 0 8), packWord 0x7 2 (us.extractLsb' 8 8)]

/-- `CRC.BYTES b0, ..., bn-1` (R74). -/
def expandCrcBytes (bytes : List Byte) : List ControlWord :=
  bytes.map (packWord 0x2 0)

/-- `CRC.OF b0, ..., bn-1` (R74). -/
def expandCrcOf (bytes : List Byte) : List ControlWord :=
  packWord 0x1 0 0 :: expandCrcBytes bytes ++ [packWord 0x3 0 0]

/-- A blank between the words of a line. -/
def isBlank (c : Char) : Bool :=
  decide (c = ' ') || decide (c = '\t')

def trimBlanks (cs : List Char) : List Char :=
  ((cs.dropWhile isBlank).reverse.dropWhile isBlank).reverse

/-- The parts of a list of characters between commas. -/
def splitCommas : List Char → List (List Char)
  | [] => [[]]
  | c :: cs =>
    match splitCommas cs with
    | [] => [[c]]
    | part :: parts => if c = ',' then [] :: part :: parts else (c :: part) :: parts

/-- A line without its comment (R73), cut into its mnemonic and its operands; `none` for an empty line. -/
def splitLine (cs : List Char) : Option (List Char × List (List Char)) :=
  let line := trimBlanks (cs.takeWhile fun c => decide (c ≠ ';'))
  let mnemonic := line.takeWhile fun c => !isBlank c
  let rest := trimBlanks (line.dropWhile fun c => !isBlank c)
  if mnemonic.isEmpty then none
  else some (mnemonic, if rest.isEmpty then [] else (splitCommas rest).map trimBlanks)

def digitValue (base : Nat) (c : Char) : Option Nat :=
  let v := if decide ('0' ≤ c) && decide (c ≤ '9') then c.toNat - '0'.toNat
    else if decide ('a' ≤ c) && decide (c ≤ 'f') then c.toNat - 'a'.toNat + 10
    else if decide ('A' ≤ c) && decide (c ≤ 'F') then c.toNat - 'A'.toNat + 10
    else base
  if v < base then some v else none

def digitsValue (base : Nat) : Nat → List Char → Option Nat
  | acc, [] => some acc
  | acc, c :: cs =>
    match digitValue base c with
    | some v => digitsValue base (acc * base + v) cs
    | none => none

/-- A number, decimal or `0x` hexadecimal (R73). -/
def parseNumber : List Char → Option Nat
  | '0' :: 'x' :: c :: cs => digitsValue 16 0 (c :: cs)
  | c :: cs => digitsValue 10 0 (c :: cs)
  | [] => none

/-- A name of a table. -/
def lookupName (table : List (String × Nat)) (cs : List Char) : Option Nat :=
  match table.find? fun row => decide (row.1.toList = cs) with
  | some row => some row.2
  | none => none

/-- A name followed by a decimal index below `bound` (`D0`, `RESP_DATA1`). -/
def parseIndexed (name : String) (bound : Nat) (cs : List Char) : Option Nat :=
  if name.toList.isPrefixOf cs then
    match cs.drop name.toList.length with
    | [] => none
    | c :: rest =>
      match digitsValue 10 0 (c :: rest) with
      | some v => if v < bound then some v else none
      | none => none
  else none

/-- Command and status names, which stand for their codes in an `IMM` (R66, R67, R73). -/
def codeNames : List (String × Nat) :=
  [("PING", 0x01), ("STOP", 0x02), ("SET_SPEED", 0x03), ("GET_STATUS", 0x04), ("OK", 0x80), ("ERROR_BAD_CRC", 0x81),
    ("ERROR_UNKNOWN_COMMAND", 0x82), ("ERROR_BUSY", 0x83), ("ERROR_OUT_OF_RANGE", 0x84), ("ERROR_DOMAIN", 0x85),
    ("ERROR_BAD_LENGTH", 0x86)]

/-- The names of the single registers (R29). -/
def registerNames : List (String × Nat) :=
  [("STATE", 0x00), ("CAUSE", 0x01), ("CAUSE_CODE", 0x02), ("RESP_VALID", 0x03), ("RESP_STATUS", 0x04), ("RXN", 0x05),
    ("CRC", 0x06), ("RESULT", 0x07), ("PERIPH_ADDR", 0x08), ("WAIT_US[7:0]", 0x09), ("WAIT_US[15:8]", 0x0A),
    ("WAIT_LAT[7:0]", 0x0B), ("WAIT_LAT[15:8]", 0x0C), ("DONE_OUT", 0x0D), ("REQ_CMD", 0x10)]

/-- A value below a bound. -/
def bounded (n : Nat) (v : Option Nat) : Option Nat :=
  v.bind fun k => if k < n then some k else none

/-- An `IMM` operand: a number below 256, or a command or status name (R73). -/
def parseImm (cs : List Char) : Option Byte :=
  (bounded 256 ((parseNumber cs).or (lookupName codeNames cs))).map (BitVec.ofNat 8)

/-- A selector of `REQ.SET`: a number, `CMD`, or `D0` .. `D13` (R73). -/
def parseReqSel (cs : List Char) : Option (BitVec 4) :=
  (bounded 16 ((parseNumber cs).or ((lookupName [("CMD", 0)] cs).or
    ((parseIndexed "D" 14 cs).map (· + 1))))).map (BitVec.ofNat 4)

/-- A selector of `CFG.SET`: a number, `ADDR`, `WLO` or `WHI` (R73). -/
def parseCfgSel (cs : List Char) : Option (BitVec 4) :=
  (bounded 16 ((parseNumber cs).or (lookupName [("ADDR", 0), ("WLO", 1), ("WHI", 2)] cs))).map (BitVec.ofNat 4)

/-- A register number of `RD`: a number, or a register name of R29 (R73). DESIGN CHOICE (log 18): R73 leaves open whether
the sentence on command and status names reaches `RD`'s `IMM`; here it does not. -/
def parseReg (prm : Params) (cs : List Char) : Option Byte :=
  (bounded 256 ((parseNumber cs).or ((lookupName registerNames cs).or
    (((parseIndexed "REQ_DATA" prm.pD cs).map (· + 0x11)).or
    (((parseIndexed "TXF" prm.pL cs).map (· + 0x20)).or
    (((parseIndexed "RXF" prm.pL cs).map (· + 0x30)).or
    ((parseIndexed "RESP_DATA" prm.pD cs).map (· + 0x40)))))))).map (BitVec.ofNat 8)

/-- The control words of one operand-free word (R73). -/
def bareLine (op : BitVec 4) (ops : List (List Char)) : Option (List ControlWord) :=
  if ops.isEmpty then some [packWord op 0 0] else none

/-- Every operand as a byte. -/
def parseBytes : List (List Char) → Option (List Byte)
  | [] => some []
  | cs :: rest => (parseImm cs).bind fun b => (parseBytes rest).map (b :: ·)

/-- The control words of a mnemonic with its operands, in the order `SEL, IMM` (R73), or of a pseudo-instruction
(R74); `none` where the line is neither. DESIGN CHOICE (log 18): R74 leaves open whether `REQ` and `TRANSACT` may be given
no data byte and `CRC.BYTES` and `CRC.OF` no byte; here they may. -/
def assembleOperation (prm : Params) (mnemonic : List Char) (ops : List (List Char)) : Option (List ControlWord) :=
  if mnemonic = "CRC.INIT".toList then bareLine 0x1 ops
  else if mnemonic = "CRC.FIN".toList then bareLine 0x3 ops
  else if mnemonic = "ENC".toList then bareLine 0x5 ops
  else if mnemonic = "DEC".toList then bareLine 0x6 ops
  else if mnemonic = "TXN".toList then bareLine 0x8 ops
  else if mnemonic = "ACK".toList then bareLine 0x9 ops
  else if mnemonic = "CRC.UPD".toList then
    match ops with
    | [b] => (parseImm b).map fun imm => [packWord 0x2 0 imm]
    | _ => none
  else if mnemonic = "RD".toList then
    match ops with
    | [r] => (parseReg prm r).map fun reg => [packWord 0xA 0 reg]
    | _ => none
  else if mnemonic = "REQ.SET".toList then
    match ops with
    | [a, b] => (parseReqSel a).bind fun sel => (parseImm b).map fun imm => [packWord 0x4 sel imm]
    | _ => none
  else if mnemonic = "CFG.SET".toList then
    match ops with
    | [a, b] => (parseCfgSel a).bind fun sel => (parseImm b).map fun imm => [packWord 0x7 sel imm]
    | _ => none
  else if mnemonic = "REQ".toList then
    match ops with
    | c :: ds => if ds.length ≤ prm.pD then
        (parseImm c).bind fun cmd => (parseBytes ds).map (expandReq prm cmd)
      else none
    | [] => none
  else if mnemonic = "TRANSACT".toList then
    match ops with
    | c :: ds => if ds.length ≤ prm.pD then
        (parseImm c).bind fun cmd => (parseBytes ds).map (expandTransact prm cmd)
      else none
    | [] => none
  else if mnemonic = "CFG.ADDR".toList then
    match ops with
    | [a] => (parseImm a).map expandCfgAddr
    | _ => none
  else if mnemonic = "CFG.WAIT".toList then
    match ops with
    | [u] => (bounded 65536 (parseNumber u)).map fun us => expandCfgWait (BitVec.ofNat 16 us)
    | _ => none
  else if mnemonic = "CRC.BYTES".toList then (parseBytes ops).map expandCrcBytes
  else if mnemonic = "CRC.OF".toList then (parseBytes ops).map expandCrcOf
  else none

/-- The control words of one line of a control-port program (R73); an empty line or a comment has none. -/
def assembleLine (prm : Params) (line : List Char) : Option (List ControlWord) :=
  match splitLine line with
  | none => some []
  | some (mnemonic, ops) => assembleOperation prm mnemonic ops

/-- The control words of a control-port program, line by line (R73). -/
def assemble (prm : Params) : List (List Char) → Option (List ControlWord)
  | [] => some []
  | line :: rest => (assembleLine prm line).bind fun ws => (assemble prm rest).map (ws ++ ·)

end Sys2Proof.Machine
end

