-- ==== Sys2Proof/Safety.lean ====
section
/-! DEFINITION. The terms claims use: the states inside the spec, the end of a run, the transition tables, the
invariants of the two instances, and the error patterns of a frame. -/

namespace Sys2Proof.Machine

/-- The step has a meaning here: a legal configuration (R9) and no state of R158 (c). -/
def State.inSpec (s : State) : Prop :=
  legalParams s.cfg = true ∧ unreachableState s = false

/-- `H.STATE` in which the port executes an operation (R157): no transaction is in flight. -/
def HostState.atRest (st : HostState) : Prop :=
  st = .idle ∨ st = .done ∨ st = .failed

/-- `H.STATE` in which a transaction is in flight (R157). -/
def HostState.busy (st : HostState) : Prop :=
  st = .sending ∨ st = .waiting ∨ st = .reading ∨ st = .validating

/-- The end of a run (R181): the program's words are all written, no transaction step is enabled, and `P` is IDLE. -/
def State.ended (s : State) : Prop :=
  s.inputs = [] ∧ s.h.state.atRest ∧ s.p.state = .idle

/-- The named assumption `DELAY_SUFFICIENT` as a claim may take it: never of a transaction with no delay (R57, R173). -/
def State.delayTaken (s : State) : Prop :=
  s.cfg.delaySufficient = true ∧ s.h.waitLat ≠ 0

/-- The READ step may be taken (R57, R135): without `DELAY_SUFFICIENT` always; taken as R173 allows, once `P` owes this
transaction no response (log 6) and is in IDLE or RECEIVING. -/
def State.readReady (s : State) : Prop :=
  s.cfg.delaySufficient = false
    ∨ (s.delayTaken ∧ s.link ≠ .owed ∧ (s.p.state = .idle ∨ s.p.state = .receiving))

/-- A stretch of a weakly fair run (R180): whatever else happens in it, control words among it, each instance is let
take a step, and no reset input is asserted. -/
def fairRound (events : List Event) : Prop :=
  .host ∈ events ∧ .periph ∈ events ∧ .resetHost ∉ events ∧ .resetPeriph ∉ events ∧ .powerOn ∉ events

/-- `k` steps of the machine, stopping at the first refusal (R181). -/
def run : Nat → State → Result
  | 0, s => .next s
  | k + 1, s =>
    match step s with
    | .next t => run k t
    | .fault f => .fault f
    | .refused r => .refused r

/-- The control words among the instructions (R70). -/
def isControlWord : Instr → Bool
  | .crcInit | .crcUpd _ | .crcFin | .reqSet _ _ | .enc | .dec | .cfgSet _ _ | .txn | .ack | .rd _ => true
  | .ping _ | .stop _ | .setSpeed _ | .getStatus _ => false
  | .ok _ | .errorBadCrc _ | .errorUnknownCommand _ | .errorBusy _ | .errorOutOfRange _ | .errorDomain _
  | .errorBadLength _ => false

/-- The transitions of `H.STATE` (the table of R131). -/
def hostTransitions : List (HostState × HostState) :=
  [(.idle, .sending), (.done, .sending), (.failed, .sending), (.sending, .waiting), (.sending, .failed),
    (.waiting, .reading), (.reading, .validating), (.reading, .failed), (.validating, .done), (.validating, .failed),
    (.done, .idle), (.failed, .idle)]

/-- The transitions of `P.STATE` over one step of the machine: those of R113, with the receive events of one write
taken together (R50 (a)). -/
def periphTransitions : List (PeriphState × PeriphState) :=
  [(.idle, .receiving), (.idle, .dispatching), (.receiving, .dispatching), (.dispatching, .responding),
    (.responding, .idle)]

/-- A state with `P.OVERRUN` cleared: what the bus can see of it (R35). -/
def forgetOverrun (s : State) : State :=
  { s with p := { s.p with overrun := false } }

/-- A step's outcome with `P.OVERRUN` cleared. -/
def forgetOverrunResult : Result → Result
  | .next t => .next (forgetOverrun t)
  | .fault f => .fault f
  | .refused r => .refused r

/-- The values `H.CAUSE` and `H.CAUSE_CODE` take together (R23, R24, R149, R150, R152). -/
def legalCause (cause code : Byte) : Prop :=
  (cause = 0x00 ∧ code = 0x00)
    ∨ ((cause = 0x40 ∨ cause = 0x60) ∧ code ∈ ([0x01, 0x02, 0x03, 0x04, 0x05] : List Byte))
    ∨ (cause = 0x80 ∧ code ∈ ([0x01, 0x02, 0x03] : List Byte))
    ∨ (cause = 0xC0 ∧ code ∈ ([0x81, 0x82, 0x83, 0x84, 0x85, 0x86] : List Byte))

/-- Every buffer has its length and every count its range (R19 to R22, R32 to R34), under a legal configuration. -/
structure BufferShapes (s : State) : Prop where
  legal : legalParams s.cfg = true
  reqData : s.h.reqData.length = s.cfg.pD
  txf : s.h.txf.length = s.cfg.pL
  rxf : s.h.rxf.length = s.cfg.pL
  rxn : s.h.rxn.toNat = 0 ∨ s.h.rxn.toNat = s.cfg.pL
  respData : s.h.respData.length = s.cfg.pD
  rxb : s.p.rxb.length = s.cfg.pL
  periphRxn : s.p.rxn ≤ s.cfg.pL + 1
  rdata : s.p.rdata.length = s.cfg.pD
  txb : s.p.txb.length = s.cfg.pL

/-- The result registers of `H` say one thing together (R20 to R24, R132, R136, R141, R153, R154). -/
structure HostCoherent (s : State) : Prop where
  /-- R23, R24: a cause the rules can record. -/
  cause : legalCause s.h.cause s.h.causeCode
  /-- R22: with no valid response the response registers are zero. -/
  noResponse : s.h.respValid = false → s.h.respStatus = 0x00 ∧ s.h.respData = zeros s.cfg.pD
  /-- R22: a valid response is what the read buffer decodes to. -/
  response : s.h.respValid = true →
    decodeFrame s.cfg .resp (readBytes s.h) = .ok (s.h.respStatus, s.h.respData)
  /-- R132: in flight there is no cause and no response yet, and `TXF` is the request. -/
  inFlight : s.h.state.busy →
    s.h.cause = 0x00 ∧ s.h.respValid = false ∧ s.h.txf = encodeFrame s.cfg s.h.reqCmd s.h.reqData
  /-- R132, R135: nothing has been read before READ, and one whole frame at VALIDATE. -/
  unread : s.h.state = .sending ∨ s.h.state = .waiting ∨ s.h.state = .reading → s.h.rxn = 0
  read : s.h.state = .validating → s.h.rxn.toNat = s.cfg.pL
  /-- R141: DONE carries no cause and a response with status `OK`. -/
  done : s.h.state = .done → s.h.cause = 0x00 ∧ s.h.respValid = true ∧ s.h.respStatus = 0x80
  /-- R141: FAILED carries a cause. -/
  failed : s.h.state = .failed → s.h.cause ≠ 0x00

/-- The registers of `P` say one thing together (R32 to R36, R110, R113, R126). -/
structure PeriphCoherent (s : State) : Prop where
  /-- R36: the address is the strap. -/
  ownAddr : s.p.ownAddr = s.cfg.ownAddr
  /-- R113: without partial delivery RECEIVING lasts only inside one receive step. -/
  wholeWrites : s.cfg.partialDelivery = false → s.p.state ≠ .receiving
  /-- R118: with partial delivery RECEIVING means that bytes are missing. -/
  missingBytes : s.p.state = .receiving → s.p.rxn < s.cfg.pL
  /-- R120, R126: the response to encode, or already committed, has a status of `STATUS_SET`. -/
  status : s.p.state = .responding ∨ s.p.txbValid = true → (statusOfCode s.p.rstatus).isSome = true
  /-- R110: every response but `OK` carries zero data. -/
  errorData : s.p.rstatus ≠ 0x80 → s.p.rdata = zeros s.cfg.pD
  /-- R126, R34: the transmit buffer is the last response committed. -/
  committed : s.p.txbValid = true → s.p.state ≠ .responding →
    s.p.txb = encodeFrame s.cfg s.p.rstatus s.p.rdata
  /-- The model's own record (log 6): a response is owed only while `P` dispatches or responds. -/
  owed : s.link = .owed → s.p.state = .dispatching ∨ s.p.state = .responding

/-- A frame corrupted by an error pattern: the set bits of the pattern flip. -/
def corrupt (frame pattern : List Byte) : List Byte :=
  List.zipWith (· ^^^ ·) frame pattern

/-- The number of set bits of a byte. -/
def byteWeight (b : Byte) : Nat :=
  ((List.range 8).map fun j => (b.getLsbD j).toNat).sum

/-- The number of bits an error pattern flips. -/
def patternWeight (pattern : List Byte) : Nat :=
  (pattern.map byteWeight).sum

/-- The flipped bits lie within 8 consecutive bit positions from `n`, counted in the order the checksum consumes them:
bytes in index order, each from bit 7 down (R76, unreflected). -/
def burstAt (pattern : List Byte) (n : Nat) : Prop :=
  ∀ i j, j < 8 → (pattern.getD i 0).getLsbD j = true → n ≤ 8 * i + (7 - j) ∧ 8 * i + (7 - j) < n + 8

/-- The pattern with one bit set. -/
def oneBit (len k : Nat) : List Byte :=
  (zeros len).set (k / 8) (1#8 <<< (k % 8))

/-- The frame passes the checksum comparison of R94. -/
def passesChecksum (prm : Params) (frame : List Byte) : Prop :=
  checksum prm (frame.take (prm.pL - 1)) = frame.getD (prm.pL - 1) 0

/-- The default polynomial x^8 + x^2 + x + 1, unreflected (R8, R86). -/
def defaultGenerator (prm : Params) : Prop :=
  prm.crcPoly = 0x07 ∧ prm.crcReflect = false

/-- The bit-serial checksum step, unreflected: shift one message bit in, subtract the generator when a bit leaves. -/
def serialStep (prm : Params) (c : Byte) (bit : Bool) : Byte :=
  (c <<< 1) ^^^ (if Bool.xor (c.getLsbD 7) bit then prm.crcPoly else 0)

/-- The bit-serial checksum step, reflected, with the bit-reversed generator `rpoly` (R76): the bits move the other way. -/
def serialStepLow (rpoly : Byte) (c : Byte) (bit : Bool) : Byte :=
  (c >>> 1) ^^^ (if Bool.xor (c.getLsbD 0) bit then rpoly else 0)

/-- The bits of a byte, most significant first. -/
def bitsOf (b : Byte) : List Bool :=
  [b.getLsbD 7, b.getLsbD 6, b.getLsbD 5, b.getLsbD 4, b.getLsbD 3, b.getLsbD 2, b.getLsbD 1, b.getLsbD 0]

/-- An answer within the command's status subset: the named assumption `ACTUATOR_CONTRACT` (R112). -/
def inContract (c : Cmd) (a : ActAnswer) : Prop :=
  answerStatus a ∈ statusSubset c

/-- The illegal control words, by the numbers of R70 and R71. -/
def illegalNumber (prm : Params) (cw : Nat) : Prop :=
  let op := cw / 4096
  let sel := cw / 256 % 16
  let imm := cw % 256
  op = 0 ∨ 0xB ≤ op
    ∨ (op ∈ [0x1, 0x3, 0x5, 0x6, 0x8, 0x9] ∧ (sel ≠ 0 ∨ imm ≠ 0))
    ∨ (op ∈ [0x2, 0xA] ∧ sel ≠ 0)
    ∨ (op = 0x4 ∧ prm.pD < sel)
    ∨ (op = 0x7 ∧ (2 < sel ∨ (sel = 0 ∧ 128 ≤ imm)))
    ∨ (op = 0xA ∧ ¬(imm ≤ 0x0D ∨ (0x10 ≤ imm ∧ imm ≤ 0x10 + prm.pD) ∨ (0x20 ≤ imm ∧ imm < 0x20 + prm.pL)
        ∨ (0x30 ≤ imm ∧ imm < 0x30 + prm.pL) ∨ (0x40 ≤ imm ∧ imm < 0x40 + prm.pD)))

end Sys2Proof.Machine
end

