-- ==== Sys2Proof/Certificates/Slice0/Obligations.lean ====
section
/-! DEFINITION. The statements for the provers. Each docstring names the rules of the spec a statement formalises. -/

open Sys2Proof Sys2Proof.Machine

/-! ### Encoding -/

/-- R61, R66, R67, R70, R72: decoding the encoding of any well-formed instruction gives it back, under every parameter. -/
def Obligations.DecodeOfEncodeIsTheInstruction : Prop :=
  ∀ (prm : Params) (i : Instr), i.wellFormed prm = true → decode prm (encode prm i) = .ok i

/-- R70, R71, R94: a code that decodes is the one encoding of its instruction, and the instruction is well formed. -/
def Obligations.EncodeOfDecodeIsTheCode : Prop :=
  ∀ (prm : Params) (c : Code) (i : Instr), decode prm c = .ok i → encode prm i = c ∧ i.wellFormed prm = true

/-- R98. -/
def Obligations.FrameRoundTrip : Prop :=
  ∀ (prm : Params) (data : List Byte), data.length = prm.pD →
    (∀ code ∈ ([0x01, 0x02, 0x03, 0x04] : List Byte),
      decodeFrame prm .req (encodeFrame prm code data) = .ok (code, data))
    ∧ (∀ code ∈ ([0x80, 0x81, 0x82, 0x83, 0x84, 0x85, 0x86] : List Byte),
      decodeFrame prm .resp (encodeFrame prm code data) = .ok (code, data))

/-- R99. -/
def Obligations.FrameInWrongDirectionIsUnknown : Prop :=
  ∀ (prm : Params) (data : List Byte), data.length = prm.pD →
    (∀ code ∈ ([0x01, 0x02, 0x03, 0x04] : List Byte),
      decodeFrame prm .resp (encodeFrame prm code data) = .error .unknownOpcode)
    ∧ (∀ code ∈ ([0x80, 0x81, 0x82, 0x83, 0x84, 0x85, 0x86] : List Byte),
      decodeFrame prm .req (encodeFrame prm code data) = .error .unknownOpcode)

/-- R94, R95, with the code sets of R66 and R67: length, then checksum, then code byte; what is accepted comes back
unchanged (R96, R97). -/
def Obligations.FrameChecksComeInOrder : Prop :=
  ∀ (prm : Params) (bytes : List Byte) (dir : Direction),
    let codes : List Byte := match dir with
      | .req => [0x01, 0x02, 0x03, 0x04]
      | .resp => [0x80, 0x81, 0x82, 0x83, 0x84, 0x85, 0x86]
    (bytes.length ≠ prm.pD + 2 → decodeFrame prm dir bytes = .error .lengthMismatch)
    ∧ ∀ (code : Byte) (data : List Byte) (cs : Byte), data.length = prm.pD → bytes = code :: data ++ [cs] →
      (cs ≠ checksum prm (code :: data) → decodeFrame prm dir bytes = .error .badChecksum)
      ∧ (cs = checksum prm (code :: data) → code ∉ codes → decodeFrame prm dir bytes = .error .unknownOpcode)
      ∧ (cs = checksum prm (code :: data) → code ∈ codes → decodeFrame prm dir bytes = .ok (code, data))

/-- R71: exactly the words R71 lists are illegal, and at the port such a word is answered ILLEGAL_CW with a zero read value
and changes nothing else. -/
def Obligations.IllegalWordIsRejected : Prop :=
  (∀ (prm : Params) (cw : ControlWord),
    (∃ why, decodeWord prm cw = .error why) ↔ illegalNumber prm cw.toNat)
  ∧ ∀ (s : State) (cw : ControlWord) (rest : List Event), s.inSpec → s.inputs = .word cw :: rest →
    illegalNumber s.cfg cw.toNat →
    step s = .next { s with inputs := rest, replies := s.replies ++ [⟨.illegalCw, 0x00⟩] }

/-- R66, R67, R70, R73, with the checksums of `95_test_vectors.md`: words written out from the spec's encodings decode to
the instructions they stand for. A frame word is its bytes, the first most significant (log 10). -/
def Obligations.SpecWordsDecode : Prop :=
  decodeTableWord 16 0x1000 = some .crcInit
  ∧ decodeTableWord 16 0x2032 = some (.crcUpd 0x32)
  ∧ decodeTableWord 16 0x4003 = some (.reqSet 0 0x03)
  ∧ decodeTableWord 16 0x71F4 = some (.cfgSet 1 0xF4)
  ∧ decodeTableWord 16 0x8000 = some .txn
  ∧ decodeTableWord 16 0xA040 = some (.rd 0x40)
  ∧ decodeTableWord 32 0x0332006E = some (.setSpeed [0x32, 0x00])
  ∧ decodeTableWord 32 0x803200D8 = some (.ok [0x32, 0x00])
  ∧ decodeTableWord 32 0x01000000 = none
  ∧ decodeTableWord 32 0x830000B6 = some (.errorBusy [0x00, 0x00])

/-- R46: a field holds the big-endian sum of its bytes; a value written into a field of a frame reads back, and no byte
outside the field changes. -/
def Obligations.FieldWriteReadsBack : Prop :=
  ∀ (frame : List Byte) (o w : Nat), o + w ≤ frame.length →
    fieldValue frame o w = ((List.range w).map fun j => (frame.getD (o + j) 0).toNat * 256 ^ (w - 1 - j)).sum
    ∧ ∀ v, v < 256 ^ w →
      fieldValue (fieldWrite frame o w v) o w = v
      ∧ (fieldWrite frame o w v).length = frame.length
      ∧ ∀ k, k < o ∨ o + w ≤ k → (fieldWrite frame o w v)[k]? = frame[k]?

/-! ### Checksum -/

/-- R86: under the default polynomial, unreflected, a frame that suffers a single-bit error, an odd number of flips, or a burst
of at most 8 bits fails the checksum comparison, for frames of every length; and some other error passes it. R86 marks these
guarantees as its own inference from R76, "from general knowledge, not in source: the CRC error-detection theorems for a
generator with a nonzero constant term and the factor (x + 1)". -/
def Obligations.CorruptedFramesFailTheChecksum : Prop :=
  ∀ prm : Params, defaultGenerator prm →
    (∀ frame pattern : List Byte, frame.length = prm.pL → pattern.length = prm.pL → passesChecksum prm frame →
      ((∃ k, k < 8 * prm.pL ∧ pattern = oneBit prm.pL k)
        ∨ patternWeight pattern % 2 = 1
        ∨ (pattern ≠ zeros prm.pL ∧ ∃ n, burstAt pattern n)) →
      ¬ passesChecksum prm (corrupt frame pattern))
    ∧ ∃ frame pattern : List Byte, frame.length = prm.pL ∧ pattern.length = prm.pL ∧ pattern ≠ zeros prm.pL
      ∧ passesChecksum prm frame ∧ passesChecksum prm (corrupt frame pattern)

/-- R85. -/
def Obligations.ValidFrameHasZeroResidue : Prop :=
  ∀ (prm : Params) (body : List Byte), prm.crcReflect = false → prm.crcXorout = 0x00 →
    checksum prm (body ++ [checksum prm body]) = 0x00

/-- R76, R77, R78, R81: the table-driven checksum is the bit-serial one over the message bits, for every generator: most
significant bit first when unreflected, least significant bit first with the bit-reversed generator when reflected. -/
def Obligations.TableChecksumIsBitSerial : Prop :=
  ∀ (prm : Params) (bytes : List Byte),
    (prm.crcReflect = false →
      checksum prm bytes = (bytes.flatMap bitsOf).foldl (serialStep prm) prm.crcInit ^^^ prm.crcXorout)
    ∧ ∀ rpoly : Byte, prm.crcReflect = true → (∀ j, j < 8 → rpoly.getLsbD j = prm.crcPoly.getLsbD (7 - j)) →
      checksum prm bytes
        = (bytes.flatMap fun b => (bitsOf b).reverse).foldl (serialStepLow rpoly) prm.crcInit ^^^ prm.crcXorout

/-- R90, by the expansion `CRC.OF` of R74: with no other word between them and no transaction in flight, the words leave
the checksum in `H.RESULT`, and every one of them is accepted. -/
def Obligations.ControlWordsComputeTheChecksum : Prop :=
  ∀ (s : State) (bytes : List Byte) (rest : List Event), s.inSpec → s.h.state.atRest →
    s.inputs = (expandCrcOf bytes).map .word ++ rest →
    run (bytes.length + 2) s = .next { s with
      inputs := rest
      h := { s.h with crc := checksum s.cfg bytes ^^^ s.cfg.crcXorout, result := checksum s.cfg bytes }
      replies := s.replies ++ List.replicate (bytes.length + 2) ⟨.accepted, 0x00⟩ }

/-! ### Control words: result, completion and frame -/

/-- R87, R88, R89. -/
def Obligations.ChecksumOperationsResult : Prop :=
  ∀ (s : State) (imm : Byte), s.h.state.atRest →
    exec .crcInit s = .next { s with
      h := { s.h with crc := s.cfg.crcInit }, replies := s.replies ++ [⟨.accepted, 0x00⟩] }
    ∧ exec (.crcUpd imm) s = .next { s with
      h := { s.h with crc := (crcTable s.cfg).getD (s.h.crc ^^^ imm).toNat 0 }
      replies := s.replies ++ [⟨.accepted, 0x00⟩] }
    ∧ exec .crcFin s = .next { s with
      h := { s.h with result := s.h.crc ^^^ s.cfg.crcXorout }, replies := s.replies ++ [⟨.accepted, 0x00⟩] }

/-- R143. -/
def Obligations.RequestSetResult : Prop :=
  ∀ (s : State) (imm : Byte), s.h.state.atRest →
    exec (.reqSet 0 imm) s = .next { s with
      h := { s.h with reqCmd := imm }, replies := s.replies ++ [⟨.accepted, 0x00⟩] }
    ∧ ∀ sel : BitVec 4, 1 ≤ sel.toNat → sel.toNat ≤ s.cfg.pD → s.h.reqData.length = s.cfg.pD →
      ∃ d : List Byte, exec (.reqSet sel imm) s = .next { s with
          h := { s.h with reqData := d }, replies := s.replies ++ [⟨.accepted, 0x00⟩] }
        ∧ d.length = s.cfg.pD
        ∧ d[sel.toNat - 1]? = some imm
        ∧ ∀ k, k ≠ sel.toNat - 1 → d[k]? = s.h.reqData[k]?

/-- R100, with R92: the frame is the code byte, the data bytes, and their checksum; any command byte is encoded. -/
def Obligations.EncodeOperationResult : Prop :=
  ∀ s : State, s.h.state.atRest →
    exec .enc s = .next { s with
      h := { s.h with txf := s.h.reqCmd :: s.h.reqData ++ [checksum s.cfg (s.h.reqCmd :: s.h.reqData)] }
      replies := s.replies ++ [⟨.accepted, 0x00⟩] }

/-- R101: the decoded response is kept with result 0x00, and a decode error clears it and gives its code. -/
def Obligations.DecodeOperationResult : Prop :=
  ∀ s : State, s.h.state.atRest →
    (∀ (st : Byte) (d : List Byte), decodeFrame s.cfg .resp (s.h.rxf.take s.h.rxn.toNat) = .ok (st, d) →
      exec .dec s = .next { s with
        h := { s.h with respValid := true, respStatus := st, respData := d, result := 0x00 }
        replies := s.replies ++ [⟨.accepted, 0x00⟩] })
    ∧ (∀ e : DecodeError, decodeFrame s.cfg .resp (s.h.rxf.take s.h.rxn.toNat) = .error e →
      exec .dec s = .next { s with
        h := { s.h with
          respValid := false, respStatus := 0x00, respData := List.replicate s.cfg.pD 0x00
          result := match e with
            | .lengthMismatch => 0x01
            | .badChecksum => 0x02
            | .unknownOpcode => 0x03 }
        replies := s.replies ++ [⟨.accepted, 0x00⟩] })

/-- R144, R26: the address from 7 bits, and each half of the delay without the other. -/
def Obligations.ConfigSetResult : Prop :=
  ∀ (s : State) (imm : Byte), s.h.state.atRest →
    (imm.toNat < 128 → ∃ a : BitVec 7, a.toNat = imm.toNat ∧
      exec (.cfgSet 0 imm) s = .next { s with
        h := { s.h with periphAddr := a }, replies := s.replies ++ [⟨.accepted, 0x00⟩] })
    ∧ (∃ w : BitVec 16, w.toNat = s.h.waitUs.toNat / 256 * 256 + imm.toNat ∧
      exec (.cfgSet 1 imm) s = .next { s with
        h := { s.h with waitUs := w }, replies := s.replies ++ [⟨.accepted, 0x00⟩] })
    ∧ (∃ w : BitVec 16, w.toNat = imm.toNat * 256 + s.h.waitUs.toNat % 256 ∧
      exec (.cfgSet 2 imm) s = .next { s with
        h := { s.h with waitUs := w }, replies := s.replies ++ [⟨.accepted, 0x00⟩] })

/-- R132: the delay latched, the earlier result cleared, the request encoded, SENDING; from IDLE, DONE and FAILED. The
field `link` is the model's own (log 6). -/
def Obligations.TransactionStartResult : Prop :=
  ∀ s : State, s.h.state.atRest →
    exec .txn s = .next { s with
      h := { s.h with
        state := .sending
        waitLat := s.h.waitUs
        cause := 0x00, causeCode := 0x00
        respValid := false, respStatus := 0x00, respData := List.replicate s.cfg.pD 0x00
        rxf := List.replicate s.cfg.pL 0x00, rxn := 0
        txf := s.h.reqCmd :: s.h.reqData ++ [checksum s.cfg (s.h.reqCmd :: s.h.reqData)] }
      link := .none
      replies := s.replies ++ [⟨.accepted, 0x00⟩] }

/-- R142, R155: IDLE, with the cause and the response kept. -/
def Obligations.AcknowledgeResult : Prop :=
  ∀ s : State, s.h.state.atRest →
    exec .ack s = .next { s with
      h := { s.h with state := .idle }, replies := s.replies ++ [⟨.accepted, 0x00⟩] }

/-- R29, R145, R18, R28: `RD` is accepted in every state, changes no register, and gives the register the map names. -/
def Obligations.ReadRegisterResult : Prop :=
  ∀ s : State, s.cfg.pD ≤ 14 →
    let gives (n : Nat) (v : Nat) : Prop := ∃ b : Byte, b.toNat = v ∧
      exec (.rd (BitVec.ofNat 8 n)) s = .next { s with replies := s.replies ++ [⟨.accepted, b⟩] }
    gives 0x00 (match s.h.state with
      | .idle => 0 | .sending => 1 | .waiting => 2 | .reading => 3 | .validating => 4 | .done => 5 | .failed => 6)
    ∧ gives 0x01 s.h.cause.toNat ∧ gives 0x02 s.h.causeCode.toNat
    ∧ gives 0x03 s.h.respValid.toNat ∧ gives 0x04 s.h.respStatus.toNat
    ∧ gives 0x05 s.h.rxn.toNat ∧ gives 0x06 s.h.crc.toNat ∧ gives 0x07 s.h.result.toNat
    ∧ gives 0x08 s.h.periphAddr.toNat
    ∧ gives 0x09 (s.h.waitUs.toNat % 256) ∧ gives 0x0A (s.h.waitUs.toNat / 256)
    ∧ gives 0x0B (s.h.waitLat.toNat % 256) ∧ gives 0x0C (s.h.waitLat.toNat / 256)
    ∧ gives 0x0D (if s.h.state = .done ∨ s.h.state = .failed then 1 else 0)
    ∧ gives 0x10 s.h.reqCmd.toNat
    ∧ (∀ k, k < s.cfg.pD → gives (0x11 + k) (s.h.reqData.getD k 0).toNat)
    ∧ (∀ k, k < s.cfg.pD + 2 → gives (0x20 + k) (s.h.txf.getD k 0).toNat)
    ∧ (∀ k, k < s.cfg.pD + 2 → gives (0x30 + k) (s.h.rxf.getD k 0).toNat)
    ∧ (∀ k, k < s.cfg.pD → gives (0x40 + k) (s.h.respData.getD k 0).toNat)

/-- R157, R159 (d): while a transaction is in flight every legal control word but `RD` is answered PORT_BUSY and changes
nothing. -/
def Obligations.BusyPortRejectsWords : Prop :=
  ∀ (i : Instr) (s : State), isControlWord i = true → (∀ n, i ≠ .rd n) → i.wellFormed s.cfg = true → s.h.state.busy →
    exec i s = .next { s with replies := s.replies ++ [⟨.portBusy, 0x00⟩] }

/-- R157, R71: a control word whose operands are illegal is answered ILLEGAL_CW in every state and changes nothing. -/
def Obligations.IllegalOperandsRejected : Prop :=
  ∀ (i : Instr) (s : State), isControlWord i = true → i.wellFormed s.cfg = false →
    exec i s = .next { s with replies := s.replies ++ [⟨.illegalCw, 0x00⟩] }

/-- R74, R143, R19: the expansion of `REQ` loads the payload, a data byte not given as 0, and touches nothing else. -/
def Obligations.RequestExpansionLoadsPayload : Prop :=
  ∀ (s : State) (cmd : Byte) (data : List Byte) (rest : List Event), s.inSpec → s.h.state.atRest →
    s.h.reqData.length = s.cfg.pD → data.length ≤ s.cfg.pD →
    s.inputs = (expandReq s.cfg cmd data).map .word ++ rest →
    run (s.cfg.pD + 1) s = .next { s with
      inputs := rest
      h := { s.h with reqCmd := cmd, reqData := data ++ List.replicate (s.cfg.pD - data.length) 0x00 }
      replies := s.replies ++ List.replicate (s.cfg.pD + 1) ⟨.accepted, 0x00⟩ }

/-! ### Request frames -/

/-- R105 to R108 under the reference stub of R125: each command's response and its effect on the stub's own state. -/
def Obligations.CommandResultsUnderStub : Prop :=
  ∀ (s : State) (d0 d1 : Byte) (more : List Byte), s.cfg.actuator = .stub → s.p.state = .dispatching →
    (d0 :: d1 :: more).length = s.cfg.pD →
    let rest : List Byte := List.replicate (s.cfg.pD - 2) 0x00
    exec (.ping (d0 :: d1 :: more)) s = .next { s with
      p := { s.p with rstatus := 0x80, rdata := 0x00 :: 0x00 :: rest, state := .responding } }
    ∧ exec (.stop (d0 :: d1 :: more)) s = .next { s with
      act := ⟨0x00, s.act.dir⟩
      p := { s.p with rstatus := 0x80, rdata := 0x00 :: 0x00 :: rest, state := .responding } }
    ∧ (d0.toNat ≤ s.cfg.speedMax → d1.toNat ≤ 1 →
      exec (.setSpeed (d0 :: d1 :: more)) s = .next { s with
        act := ⟨d0, d1⟩
        p := { s.p with rstatus := 0x80, rdata := d0 :: d1 :: rest, state := .responding } })
    ∧ exec (.getStatus (d0 :: d1 :: more)) s = .next { s with
      p := { s.p with rstatus := 0x80, rdata := s.act.speed :: s.act.dir :: rest, state := .responding } }

/-- R123, R124, R110: with any actuator, a command whose arguments are valid is answered by the translation of one
answer of `ACT`: the drawn one when the environment has fixed it, and some answer when nothing fixes it. Nothing else
of `P` and nothing of `H` changes. That answers stand in `draws` is the model's form (log 3), and an answer is read as `P_D`
bytes (log 17). -/
def Obligations.ActuatorOutcomeIsTranslated : Prop :=
  ∀ (s : State) (c : Cmd) (data : List Byte), s.cfg.actuator = .oracle → s.p.state = .dispatching →
    data.length = s.cfg.pD →
    (c = .setSpeed → ∃ d0 d1 more, data = d0 :: d1 :: more ∧ d0.toNat ≤ s.cfg.speedMax ∧ d1.toNat ≤ 1) →
    let answered (t : State) (a : ActAnswer) : Result := .next { t with
      p := { s.p with
        state := .responding
        rstatus := match a with
          | .ok _ => 0x80
          | .domainError => 0x85
          | .pending => 0x83
        rdata := match a with
          | .ok rd => fitTo s.cfg.pD rd
          | .domainError => List.replicate s.cfg.pD 0x00
          | .pending => List.replicate s.cfg.pD 0x00 } }
    (∀ d ds, s.draws = d :: ds → exec (c.instr data) s = answered { s with draws := ds } d.answer)
    ∧ (s.draws = [] → ∃ a, exec (c.instr data) s = answered { s with drawCount := s.drawCount + 1 } a)

/-- R107, R103, R122, R104: an out-of-range `SET_SPEED` is answered ERROR_OUT_OF_RANGE with zero data; the actuator is
not invoked, whichever it is. -/
def Obligations.OutOfRangeIsRejectedNotClamped : Prop :=
  ∀ (s : State) (d0 d1 : Byte) (more : List Byte), s.p.state = .dispatching →
    (d0 :: d1 :: more).length = s.cfg.pD → s.cfg.speedMax < d0.toNat ∨ 1 < d1.toNat →
    exec (.setSpeed (d0 :: d1 :: more)) s = .next { s with
      p := { s.p with rstatus := 0x84, rdata := List.replicate s.cfg.pD 0x00, state := .responding } }

/-- R121, R120: a frame that does not decode is answered without invoking anything, with the status of its error and
zero data; an overlong one is a LengthMismatch. -/
def Obligations.UndecodableRequestIsAnswered : Prop :=
  ∀ (s : State) (rest : List Event), s.inSpec → s.inputs = .periph :: rest → s.p.state = .dispatching →
    let answered (st : Byte) : Result := .next { s with
      inputs := rest
      p := { s.p with rstatus := st, rdata := List.replicate s.cfg.pD 0x00, state := .responding } }
    (s.p.rxn = s.cfg.pL + 1 → step s = answered 0x86)
    ∧ (s.p.rxn ≤ s.cfg.pL →
      (decodeFrame s.cfg .req (s.p.rxb.take s.p.rxn) = .error .lengthMismatch → step s = answered 0x86)
      ∧ (decodeFrame s.cfg .req (s.p.rxb.take s.p.rxn) = .error .badChecksum → step s = answered 0x81)
      ∧ (decodeFrame s.cfg .req (s.p.rxb.take s.p.rxn) = .error .unknownOpcode → step s = answered 0x82))

/-- R112, R105 to R108: under `ACTUATOR_CONTRACT` a dispatched command's response status is in the command's intended
subset. -/
def Obligations.ContractKeepsStatusInSubset : Prop :=
  ∀ (s : State) (c : Cmd) (data : List Byte) (d : Draw) (ds : List Draw), s.cfg.actuator = .oracle →
    s.p.state = .dispatching → data.length = s.cfg.pD → s.draws = d :: ds → inContract c d.answer →
    ∃ t, exec (c.instr data) s = .next t ∧ t.p.rstatus ∈ (statusSubset c).map statusCode

/-! ### Response frames -/

/-- R136, R111: `OK` ends the transaction in DONE with the response kept and no cause written. -/
def Obligations.OkResponseGivesDone : Prop :=
  ∀ (s : State) (data : List Byte), s.h.state = .validating → data.length = s.cfg.pD →
    exec (.ok data) s = .next { s with
      h := { s.h with respValid := true, respStatus := 0x80, respData := data, state := .done } }

/-- R136, R152, R153: every other status ends it in FAILED, class STATUS with the status byte, the response kept. -/
def Obligations.FailureStatusGivesFailed : Prop :=
  ∀ (s : State) (data : List Byte), s.h.state = .validating → data.length = s.cfg.pD →
    let failed (st : Byte) : Result := .next { s with
      h := { s.h with
        respValid := true, respStatus := st, respData := data, cause := 0xC0, causeCode := st, state := .failed } }
    exec (.errorBadCrc data) s = failed 0x81
    ∧ exec (.errorUnknownCommand data) s = failed 0x82
    ∧ exec (.errorBusy data) s = failed 0x83
    ∧ exec (.errorOutOfRange data) s = failed 0x84
    ∧ exec (.errorDomain data) s = failed 0x85
    ∧ exec (.errorBadLength data) s = failed 0x86

/-- R136, R150, R153: a response that does not decode ends the transaction in FAILED, class DECODE, with its code and no
response. -/
def Obligations.UndecodableResponseGivesFailed : Prop :=
  ∀ (s : State) (rest : List Event) (e : DecodeError), s.inSpec → s.inputs = .host :: rest →
    s.h.state = .validating → decodeFrame s.cfg .resp (s.h.rxf.take s.h.rxn.toNat) = .error e →
    step s = .next { s with
      inputs := rest
      h := { s.h with
        cause := 0x80
        causeCode := match e with
          | .lengthMismatch => 0x01
          | .badChecksum => 0x02
          | .unknownOpcode => 0x03
        state := .failed } }

/-- R120, R136: a request runs only in `P`'s DISPATCHING state and a response only in `H`'s VALIDATING state. What the
model does elsewhere, nothing, is its own choice (log 8). -/
def Obligations.FramesRunOnlyWhenEnabled : Prop :=
  ∀ (s : State) (data : List Byte),
    (s.p.state ≠ .dispatching → ∀ c : Cmd, exec (c.instr data) s = .next s)
    ∧ (s.h.state ≠ .validating → ∀ st : Status, exec (st.instr data) s = .next s)

/-- A frame instruction whose data has another length than `P_D` stands for a frame of another length than `P_L`: it acts
as the LengthMismatch of R121 and R136. That `exec` is asked about it at all is the model's own form (log 8). -/
def Obligations.IllFormedFrameIsALengthError : Prop :=
  ∀ (s : State) (data : List Byte), data.length ≠ s.cfg.pD →
    (s.p.state = .dispatching → ∀ c : Cmd, exec (c.instr data) s = .next { s with
      p := { s.p with rstatus := 0x86, rdata := List.replicate s.cfg.pD 0x00, state := .responding } })
    ∧ (s.h.state = .validating → ∀ st : Status, exec (st.instr data) s = .next { s with
      h := { s.h with cause := 0x80, causeCode := 0x01, state := .failed } })

/-! ### The transaction steps and the bus -/

/-- R133, R52, R115 to R119, R153 without noise: a wrong address ends the transaction and `P` receives nothing; an idle
`P` holds the whole frame in the same step, in whatever chunks it came, of which chunks after the completing one only set
`P.OVERRUN`; a busy `P` discards it; and under partial delivery `P` handles exactly the chunks the draw cuts, in order. That
the cuts stand in `draws` is the model's form (log 3); the field `link` is the model's own (log 6). -/
def Obligations.SendStepWithoutNoise : Prop :=
  ∀ (s : State) (rest : List Event), s.inSpec → s.inputs = .host :: rest → s.h.state = .sending →
    s.cfg.busNoise = false →
    (s.h.periphAddr ≠ s.p.ownAddr →
      step s = .next { s with
        inputs := rest, h := { s.h with cause := 0x40, causeCode := 0x03, state := .failed } })
    ∧ (s.h.periphAddr = s.p.ownAddr → s.p.state = .idle → s.h.txf.length = s.cfg.pL →
      s.p.rxb.length = s.cfg.pL →
      ∃ o ds n, step s = .next { s with
          inputs := rest
          h := { s.h with state := .waiting }
          p := { s.p with
            rxb := s.h.txf, rxn := s.cfg.pL, state := .dispatching, overrun := s.p.overrun || o }
          link := .owed
          draws := ds, drawCount := n }
        ∧ (s.cfg.partialDelivery = false → o = false ∧ ds = s.draws ∧ n = s.drawCount))
    ∧ (s.h.periphAddr = s.p.ownAddr → s.p.state = .dispatching ∨ s.p.state = .responding →
      ∃ ds n, step s = .next { s with
          inputs := rest
          h := { s.h with state := .waiting }
          p := { s.p with overrun := true }
          link := .none
          draws := ds, drawCount := n }
        ∧ (s.cfg.partialDelivery = false → ds = s.draws ∧ n = s.drawCount))
    ∧ (s.h.periphAddr = s.p.ownAddr → s.cfg.partialDelivery = true → ∀ d ds, s.draws = d :: ds →
      ∃ l, step s = .next { s with
          inputs := rest
          h := { s.h with state := .waiting }
          p := (chunksOf d.cuts s.h.txf).foldl (fun p chunk => receive s.cfg p chunk.1 chunk.2) s.p
          link := l
          draws := ds })

/-- R52, I3: on a noisy bus a write may deliver any bytes, whole or in chunks, or none, and report any outcome; the SEND step
does no other thing to `H`, and `P` handles exactly the bytes delivered. That the outcome stands in `draws` is the model's
form (log 3). -/
def Obligations.NoisyWriteAdmitsEveryOutcome : Prop :=
  ∀ (s : State) (rest : List Event) (d : Draw) (ds : List Draw), s.inSpec → s.inputs = .host :: rest →
    s.h.state = .sending → s.cfg.busNoise = true → s.draws = d :: ds →
    ∃ t, step s = .next t
      ∧ t.p = (if d.delivers then
          if s.cfg.partialDelivery then
            (chunksOf d.cuts d.bytes).foldl (fun p chunk => receive s.cfg p chunk.1 chunk.2) s.p
          else receive s.cfg s.p d.bytes true
        else s.p)
      ∧ t.h = (match d.error with
        | none => { s.h with state := .waiting }
        | some k => { s.h with
            state := .failed, cause := 0x40
            causeCode := match k with
              | .noResponse => 0x01
              | .shortRead => 0x02
              | .addressNack => 0x03
              | .timeout => 0x04
              | .other => 0x05 })

/-- R134, R56: WAIT moves to READING and nothing else changes. -/
def Obligations.WaitStepOrdersNothing : Prop :=
  ∀ (s : State) (rest : List Event), s.inSpec → s.inputs = .host :: rest → s.h.state = .waiting →
    step s = .next { s with inputs := rest, h := { s.h with state := .reading } }

/-- R135, R53, R51 without noise, when R57 enables the step: a settled buffer is read whole and left as it was; a wrong
address is an ADDRESS_NACK in phase READ with the read buffer cleared. `DELAY_SUFFICIENT` is taken only with a nonzero
delay (R173); the record of the response is the model's own field `link` (log 6). -/
def Obligations.ReadStepWithoutNoise : Prop :=
  ∀ (s : State) (rest : List Event), s.inSpec → s.inputs = .host :: rest → s.h.state = .reading →
    s.cfg.busNoise = false → s.readReady →
    (s.h.periphAddr = s.p.ownAddr → s.p.txbValid = true → s.p.state = .idle ∨ s.p.state = .receiving →
      ∃ n : BitVec 8, n.toNat = s.cfg.pL ∧ step s = .next { s with
        inputs := rest, h := { s.h with rxf := s.p.txb, rxn := n, state := .validating } })
    ∧ (s.h.periphAddr ≠ s.p.ownAddr →
      step s = .next { s with
        inputs := rest
        h := { s.h with
          rxf := List.replicate s.cfg.pL 0x00, rxn := 0, cause := 0x60, causeCode := 0x03, state := .failed } })

/-- R53, I1, I2, I4: a read that is a draw (a noisy bus, or an unsettled buffer of the addressed `P`) gives exactly `P_L`
bytes or a bus error, any of them, and changes nothing of `P`. That a draw stands in `draws` is the model's form (log 3);
`DELAY_SUFFICIENT` is taken only as R173 allows, with the model's record of R57 (log 6). -/
def Obligations.DrawnReadAdmitsExactlyTheStatedOutcomes : Prop :=
  ∀ (s : State) (rest : List Event), s.inSpec → s.inputs = .host :: rest → s.h.state = .reading →
    s.readReady →
    (s.cfg.busNoise = true ∨ (s.h.periphAddr = s.p.ownAddr ∧
      (s.p.txbValid = false ∨ s.p.state = .dispatching ∨ s.p.state = .responding))) →
    let gotBytes (t : State) (bytes : List Byte) : Prop :=
      t.h = { s.h with rxf := bytes, rxn := BitVec.ofNat 8 s.cfg.pL, state := .validating }
    let gotError (t : State) (code : Byte) : Prop :=
      t.h = { s.h with
        rxf := List.replicate s.cfg.pL 0x00, rxn := 0, cause := 0x60, causeCode := code, state := .failed }
    let codes : List Byte := [0x01, 0x02, 0x03, 0x04, 0x05]
    (∃ t, step s = .next t ∧ t.p = s.p
      ∧ ((∃ bytes, bytes.length = s.cfg.pL ∧ gotBytes t bytes) ∨ ∃ code ∈ codes, gotError t code))
    ∧ (∀ bytes : List Byte, bytes.length = s.cfg.pL →
      ∃ d : Draw, ∃ t, step { s with draws := d :: s.draws } = .next t ∧ gotBytes t bytes)
    ∧ (∀ code ∈ codes,
      ∃ d : Draw, ∃ t, step { s with draws := d :: s.draws } = .next t ∧ gotError t code)

/-- R57, R135: under `DELAY_SUFFICIENT` the READ step is not taken while `P` owes the response to this transaction's frame,
which the model's own field `link` records (log 6), nor while `P` is not in IDLE or RECEIVING; that the step then changes
nothing is the model's choice (log 8). The assumption is taken only with a nonzero delay (R173, log 14). -/
def Obligations.SufficientDelayHoldsBackTheRead : Prop :=
  ∀ (s : State) (rest : List Event), s.inSpec → s.inputs = .host :: rest → s.h.state = .reading →
    s.delayTaken → s.link = .owed ∨ s.p.state = .dispatching ∨ s.p.state = .responding →
    step s = .next { s with inputs := rest }

/-- R115 to R118, R32: a receive event that finds `P` listening: in IDLE it starts a frame, in RECEIVING it continues one;
its bytes are stored in order from the count on while there is room, no other byte of the buffer changes, the count stops
at `P_L + 1`, and the end check of the mode decides whether the frame is complete. -/
def Obligations.ReceivedBytesAreStoredInOrder : Prop :=
  ∀ (prm : Params) (p : PeriphRegs) (bytes : List Byte) (last : Bool), p.state = .idle ∨ p.state = .receiving →
    p.rxb.length = prm.pL → p.rxn ≤ prm.pL + 1 →
    let held := if p.state = .idle then 0 else p.rxn
    receive prm p bytes last = { p with
      state :=
        if (if prm.partialDelivery then prm.pL ≤ held + bytes.length else last = true) then .dispatching
        else .receiving
      rxn := min (held + bytes.length) (prm.pL + 1)
      rxb := p.rxb.take held ++ bytes.take (prm.pL - held) ++ p.rxb.drop (held + bytes.length) }

/-- R115, R116, R118, R52 under partial delivery: a write that starts a frame at an idle `P` or continues one in RECEIVING,
and does not run past `P_L`, is held in order after the bytes held before, whatever its chunks; while bytes are missing `P`
stays RECEIVING, and with the last one it is DISPATCHING, where chunks after the completing one can only set
`P.OVERRUN`. -/
def Obligations.SplitWriteIsReceivedWhole : Prop :=
  ∀ (s : State) (cuts : List Nat) (bytes : List Byte), s.cfg.partialDelivery = true →
    s.p.state = .idle ∨ s.p.state = .receiving → s.p.rxb.length = s.cfg.pL →
    let held := if s.p.state = .idle then 0 else s.p.rxn
    held < s.cfg.pL →
    let stored := s.p.rxb.take held ++ bytes ++ s.p.rxb.drop (held + bytes.length)
    (held + bytes.length < s.cfg.pL →
      (deliver cuts bytes s).p = { s.p with
        rxb := stored, rxn := held + bytes.length, state := .receiving })
    ∧ (held + bytes.length = s.cfg.pL →
      ∃ o, (deliver cuts bytes s).p = { s.p with
        rxb := stored, rxn := s.cfg.pL, state := .dispatching, overrun := s.p.overrun || o })

/-! ### The peripheral -/

/-- R119, R58, R176, R128: while `P` dispatches or responds, a receive event sets `P.OVERRUN` and nothing else, and no
step of the machine but `P`'s own and a reset of `P` changes anything else of it. With no input left a step is one of `H` or
one of `P` (log 2), and `P`'s own moves `P` on and leaves `H` alone. -/
def Obligations.BusyPeripheralIsUndisturbed : Prop :=
  (∀ (prm : Params) (p : PeriphRegs) (bytes : List Byte) (last : Bool),
    p.state = .dispatching ∨ p.state = .responding → receive prm p bytes last = { p with overrun := true })
  ∧ ∀ s t : State, s.p.state = .dispatching ∨ s.p.state = .responding → step s = .next t →
    (∀ e rest, s.inputs = e :: rest → e ≠ .periph → e ≠ .resetPeriph → e ≠ .powerOn →
      (forgetOverrun t).p = (forgetOverrun s).p)
    ∧ (s.inputs = [] →
      (forgetOverrun t).p = (forgetOverrun s).p
      ∨ (t.h = s.h ∧ ((s.p.state = .dispatching ∧ t.p.state = .responding)
        ∨ (s.p.state = .responding ∧ t.p.state = .idle))))

/-- R126: the commit of the response, all bytes at once. The field `link` is the model's own (log 6). -/
def Obligations.RespondStepCommits : Prop :=
  ∀ (s : State) (rest : List Event), s.inSpec → s.inputs = .periph :: rest → s.p.state = .responding →
    step s = .next { s with
      inputs := rest
      p := { s.p with
        txb := s.p.rstatus :: s.p.rdata ++ [checksum s.cfg (s.p.rstatus :: s.p.rdata)]
        txbValid := true
        state := .idle }
      link := if s.link = .owed then .answered else s.link }

/-- R129, R128: whatever bytes `P` dispatches, two steps of `P` commit exactly one response frame of `P_L` bytes with a
valid status, and `P` is back in IDLE. -/
def Obligations.DispatchAlwaysResponds : Prop :=
  ∀ (s : State) (rest : List Event), s.inSpec → s.p.state = .dispatching →
    s.inputs = .periph :: .periph :: rest →
    ∃ t st data, run 2 s = .next t ∧ t.inputs = rest ∧ t.h = s.h
      ∧ t.p.state = .idle ∧ t.p.txbValid = true ∧ t.p.txb.length = s.cfg.pL
      ∧ decodeFrame s.cfg .resp t.p.txb = .ok (st, data)
      ∧ t.p.rxb = s.p.rxb ∧ t.p.rxn = s.p.rxn

/-! ### The machine -/

/-- R15, R59, R157, R120, R136: the step runs the decoded instruction: the control word at the port, the request frame
`P` holds, the response frame `H` has read. What the step does around `exec` is to take the input off the queue, which is the model's own
(log 1, log 2). -/
def Obligations.StepRunsTheDecodedInstruction : Prop :=
  ∀ (s : State) (i : Instr) (rest : List Event), s.inSpec →
    (∀ cw, s.inputs = .word cw :: rest → decodeWord s.cfg cw = .ok i → step s = exec i { s with inputs := rest })
    ∧ (s.p.state = .dispatching → s.p.rxn ≤ s.cfg.pL → decodeRequest s.cfg (s.p.rxb.take s.p.rxn) = .ok i →
      (s.inputs = .periph :: rest → step s = exec i { s with inputs := rest })
      ∧ (s.inputs = [] → s.h.state.atRest → step s = exec i s))
    ∧ (s.h.state = .validating → decodeResponse s.cfg (s.h.rxf.take s.h.rxn.toNat) = .ok i →
      (s.inputs = .host :: rest → step s = exec i { s with inputs := rest })
      ∧ (s.inputs = [] → s.p.state = .idle ∨ s.p.state = .receiving → step s = exec i s))

/-- R131: every step keeps `H.STATE` or moves it along the table; the resets of R167 apart, which give IDLE. -/
def Obligations.HostStateFollowsItsTable : Prop :=
  ∀ s t : State, step s = .next t →
    t.h.state = s.h.state ∨ (s.h.state, t.h.state) ∈ hostTransitions
    ∨ ((∃ rest, s.inputs = .resetHost :: rest ∨ s.inputs = .powerOn :: rest) ∧ t.h.state = .idle)

/-- R113: every step keeps `P.STATE` or moves it along the table, with the receive events of one write taken together;
the resets of R167 apart, which give IDLE. -/
def Obligations.PeriphStateFollowsItsTable : Prop :=
  ∀ s t : State, step s = .next t →
    t.p.state = s.p.state ∨ (s.p.state, t.p.state) ∈ periphTransitions
    ∨ ((∃ rest, s.inputs = .resetPeriph :: rest ∨ s.inputs = .powerOn :: rest) ∧ t.p.state = .idle)

/-- R19 to R22, R32 to R34: the buffers keep their lengths and the counts their ranges, over every step. -/
def Obligations.StepKeepsBufferShapes : Prop :=
  ∀ s t : State, BufferShapes s → step s = .next t → BufferShapes t

/-- R20 to R24, R132, R136, R141, R154: the result registers of `H` stay coherent over every step. -/
def Obligations.StepKeepsHostCoherent : Prop :=
  ∀ s t : State, BufferShapes s → HostCoherent s → step s = .next t → HostCoherent t

/-- R32 to R36, R110, R113, R118, R126: the registers of `P` stay coherent over every step. The clause on the field `link` is the model's own (log 6). -/
def Obligations.StepKeepsPeriphCoherent : Prop :=
  ∀ s t : State, BufferShapes s → PeriphCoherent s → step s = .next t → PeriphCoherent t

/-- R40 to R42: the three invariants hold after reset, under this hardware's parameters and every other legal ones. -/
def Obligations.ResetSatisfiesInvariants : Prop :=
  (BufferShapes State.reset ∧ HostCoherent State.reset ∧ PeriphCoherent State.reset)
  ∧ ∀ prm : Params, legalParams prm = true →
    BufferShapes (State.resetWith prm) ∧ HostCoherent (State.resetWith prm) ∧ PeriphCoherent (State.resetWith prm)

/-- R41, R42, R167: each reset input puts its instance in the stated state in one step and leaves the other instance and
`ACT` alone; power-on resets both. That power-on leaves the stub's registers is read from R167 (log 16), and that the
replies given stay is the model's choice (log 15). Of the model's own field `link` (log 6) nothing is said. -/
def Obligations.ResetInputsResult : Prop :=
  ∀ (s : State) (rest : List Event), s.inSpec →
    let h : HostRegs := {
      state := .idle, reqCmd := 0x00, reqData := List.replicate s.cfg.pD 0x00, txf := List.replicate s.cfg.pL 0x00
      rxf := List.replicate s.cfg.pL 0x00, rxn := 0, respValid := false, respStatus := 0x00
      respData := List.replicate s.cfg.pD 0x00, cause := 0x00, causeCode := 0x00, crc := s.cfg.crcInit
      result := 0x00, periphAddr := 0x00, waitUs := 0x0000, waitLat := 0x0000 }
    let p : PeriphRegs := {
      state := .idle, rxb := List.replicate s.cfg.pL 0x00, rxn := 0, rstatus := 0x00
      rdata := List.replicate s.cfg.pD 0x00, txb := List.replicate s.cfg.pL 0x00, txbValid := false
      overrun := false, ownAddr := s.cfg.ownAddr }
    (s.inputs = .resetHost :: rest → ∃ l, step s = .next { s with inputs := rest, h := h, link := l })
    ∧ (s.inputs = .resetPeriph :: rest → ∃ l, step s = .next { s with inputs := rest, p := p, link := l })
    ∧ (s.inputs = .powerOn :: rest → ∃ l, step s = .next { s with inputs := rest, h := h, p := p, link := l })

/-- R54, R164, R16, R51, R38, R167: the instances share nothing: a control word changes nothing of `P` or `ACT`; a step of `P`
nothing of `H`; a step of `H` nothing of `ACT`, nothing of `P` outside SEND, and inside SEND only what receive events
change (R114); a reset of one instance nothing of the other or of `ACT`; no step of any kind changes the parameters. With no
input left a step is one of `H` or one of `P` (log 2). -/
def Obligations.InstancesShareNothing : Prop :=
  ∀ s t : State, step s = .next t →
    let stepOfHost : Prop := t.act = s.act ∧ t.replies = s.replies
      ∧ (s.h.state ≠ .sending → t.p = s.p)
      ∧ t.p = { s.p with
          state := t.p.state, rxb := t.p.rxb, rxn := t.p.rxn, overrun := t.p.overrun }
    let stepOfPeriph : Prop := t.h = s.h ∧ t.replies = s.replies
    t.cfg = s.cfg
    ∧ (∀ e rest, s.inputs = e :: rest →
      ((∃ cw, e = .word cw) → t.p = s.p ∧ t.act = s.act ∧ t.draws = s.draws ∧ t.drawCount = s.drawCount)
      ∧ (e = .periph → stepOfPeriph)
      ∧ (e = .host → stepOfHost)
      ∧ (e = .resetHost → t.p = s.p ∧ t.act = s.act)
      ∧ (e = .resetPeriph → t.h = s.h ∧ t.act = s.act)
      ∧ (e = .powerOn → t.act = s.act))
    ∧ (s.inputs = [] → stepOfHost ∨ stepOfPeriph)

/-- R35, R39 (c): `P.OVERRUN` influences nothing: two states that differ only in it step to states that differ at most
in it. -/
def Obligations.OverrunIsInvisible : Prop :=
  ∀ s : State, forgetOverrunResult (step s) = forgetOverrunResult (step (forgetOverrun s))

/-- R140, R128, R180, R181: with no input left, within eight steps every transaction in flight has ended in DONE or FAILED
and `P` has no step left, whatever the bus and the actuator answer and in whichever order the two instances move; under
`DELAY_SUFFICIENT` too, taken only with a nonzero delay (R173, log 14) and a record `link` that the invariant of `P` allows
(log 6). That the enabled steps are always taken then is the model's reading of R180 (log 2). -/
def Obligations.TransactionEndsInEightSteps : Prop :=
  ∀ s : State, s.inSpec → s.inputs = [] → s.h.state.busy →
    s.cfg.delaySufficient = false ∨ (s.delayTaken ∧ PeriphCoherent s) →
    ∃ t, run 8 s = .next t
      ∧ (t.h.state = .done ∨ t.h.state = .failed)
      ∧ (t.p.state = .idle ∨ t.p.state = .receiving)

/-- R180, R140: weak fairness with words that never stop. Whatever control words come and in whatever order the instances
move, a transaction in flight has ended in DONE or FAILED before eight stretches are over in each of which each instance is
let take a step and nothing is reset; so it has in every fair run, of which such a list is a prefix (log 1, log 13). Under
`DELAY_SUFFICIENT` too, taken as in R173 (log 14, log 6). -/
def Obligations.FairInputsEndTheTransaction : Prop :=
  ∀ (s : State) (rounds : List (List Event)) (rest : List Event), s.inSpec → s.h.state.busy →
    s.cfg.delaySufficient = false ∨ (s.delayTaken ∧ PeriphCoherent s) →
    rounds.length = 8 → (∀ r ∈ rounds, fairRound r) → s.inputs = rounds.flatten ++ rest →
    ∃ k t, k ≤ rounds.flatten.length ∧ run k s = .next t ∧ (t.h.state = .done ∨ t.h.state = .failed)

/-- R172, R57, R54: without noise and under `DELAY_SUFFICIENT`, a valid `SET_SPEED` sent to an idle `P` with the
reference stub ends in DONE with the response to this very request, in six steps and in whichever order the instances
move. The assumption is taken only with a nonzero delay (R173, log 14). That enabled steps are taken at once is the model's
choice (log 2), the record of the answer its own field (log 6). -/
def Obligations.FreshResponseUnderSufficientDelay : Prop :=
  ∀ (s : State) (d0 d1 : Byte) (more : List Byte), BufferShapes s → s.inSpec → s.inputs = [] →
    s.cfg.busNoise = false → s.cfg.partialDelivery = false → s.delayTaken →
    s.cfg.actuator = .stub → s.h.state = .sending → s.h.periphAddr = s.p.ownAddr →
    s.p.state = .idle → (d0 :: d1 :: more).length = s.cfg.pD →
    d0.toNat ≤ s.cfg.speedMax → d1.toNat ≤ 1 →
    s.h.txf = encodeFrame s.cfg 0x03 (d0 :: d1 :: more) →
    ∃ t, run 6 s = .next t
      ∧ t.h.state = .done ∧ t.h.respValid = true ∧ t.h.respStatus = 0x80
      ∧ t.h.respData = d0 :: d1 :: List.replicate (s.cfg.pD - 2) 0x00
      ∧ t.act = ⟨d0, d1⟩ ∧ t.p.state = .idle

/-- R172, R53: without `DELAY_SUFFICIENT` an early read can return the previous response; if that was an `OK`, the
transaction ends in DONE with the old data. That a draw stands in `draws` is the model's form (log 3). -/
def Obligations.StaleResponseCanPassForFresh : Prop :=
  ∀ (s : State) (rest : List Event) (data : List Byte), BufferShapes s → s.inSpec →
    s.inputs = .host :: .host :: rest → s.h.state = .reading → s.cfg.delaySufficient = false →
    s.h.periphAddr = s.p.ownAddr → s.p.state = .dispatching ∨ s.p.state = .responding →
    decodeFrame s.cfg .resp s.p.txb = .ok (0x80, data) →
    ∃ d : Draw, ∃ t, run 2 { s with draws := d :: s.draws } = .next t
      ∧ t.h.state = .done ∧ t.h.respStatus = 0x80 ∧ t.h.respData = data

/-- R158, R9, R13: the model refuses exactly the illegal configurations and the unreachable states, each by its name, and
refuses nothing else. -/
def Obligations.RefusalsAreExactlyTheSpecs : Prop :=
  ∀ (s : State) (r : Refusal), step s = .refused r ↔
    (¬ (2 ≤ s.cfg.pD ∧ s.cfg.pD ≤ 14 ∧ s.cfg.speedMax ≤ 255) ∧ r = .illegalConfiguration)
    ∨ ((2 ≤ s.cfg.pD ∧ s.cfg.pD ≤ 14 ∧ s.cfg.speedMax ≤ 255)
      ∧ (s.h.cause.toNat % 32 ≠ 0 ∨ s.cfg.pD + 3 < s.p.rxn) ∧ r = .unreachableState)

/-- R181, R130: an ended run has no enabled step, so it stays as it is; that the machine then steps to the same state is
the model's choice (log 2). -/
def Obligations.EndedRunStaysEnded : Prop :=
  ∀ s : State, s.inSpec → s.ended → hostEnabled s = false ∧ periphEnabled s = false ∧ step s = .next s
end

