-- ==== Sys2Proof/Laws/Codec.lean ====
section
/-! SUPPORT. The codec said once: what `decodeFrame` answers on a frame in parts, when it succeeds, and the code sets. -/

namespace Sys2Proof.Laws

open Sys2Proof.Machine

variable (prm : Params)

@[simp] theorem zeros_length (n : Nat) : (zeros n).length = n := by simp [zeros]

@[simp] theorem fitTo_length (n : Nat) (bs : List Byte) : (fitTo n bs).length = n := by simp [fitTo]

theorem fitTo_of_length (n : Nat) (bs : List Byte) (h : bs.length = n) : fitTo n bs = bs := by
  simp [fitTo, ← h]

@[simp] theorem encodeFrame_length (c : Byte) (d : List Byte) : (encodeFrame prm c d).length = d.length + 2 := by
  simp [encodeFrame]

/-! The code sets (R66, R67). -/

@[simp] theorem cmdOfCode_cmdCode (c : Cmd) : cmdOfCode (cmdCode c) = some c := by cases c <;> rfl

@[simp] theorem statusOfCode_statusCode (st : Status) : statusOfCode (statusCode st) = some st := by cases st <;> rfl

theorem cmdOfCode_some (b : Byte) (c : Cmd) (h : cmdOfCode b = some c) : b = cmdCode c := by
  unfold cmdOfCode at h
  split at h <;> simp at h <;> subst h <;> apply BitVec.eq_of_toNat_eq <;> simpa [cmdCode]

theorem statusOfCode_some (b : Byte) (st : Status) (h : statusOfCode b = some st) : b = statusCode st := by
  unfold statusOfCode at h
  split at h <;> simp at h <;> subst h <;> apply BitVec.eq_of_toNat_eq <;> simpa [statusCode]

/-- The codes of each direction, listed (R66, R67). -/
def codeList : Direction → List Byte
  | .req => [0x01, 0x02, 0x03, 0x04]
  | .resp => [0x80, 0x81, 0x82, 0x83, 0x84, 0x85, 0x86]

theorem codeInSet_iff (dir : Direction) (b : Byte) : codeInSet dir b = true ↔ b ∈ codeList dir := by
  cases dir
  · constructor
    · intro h
      obtain ⟨c, hc⟩ := Option.isSome_iff_exists.mp h
      rw [cmdOfCode_some b c hc]; cases c <;> decide
    · intro h
      simp only [codeList, List.mem_cons, List.not_mem_nil, or_false] at h
      rcases h with h | h | h | h <;> subst h <;> decide
  · constructor
    · intro h
      obtain ⟨c, hc⟩ := Option.isSome_iff_exists.mp h
      rw [statusOfCode_some b c hc]; cases c <;> decide
    · intro h
      simp only [codeList, List.mem_cons, List.not_mem_nil, or_false] at h
      rcases h with h | h | h | h | h | h | h <;> subst h <;> decide

/-! `decodeFrame` (R94). -/

theorem decodeFrame_length (dir : Direction) (bs : List Byte) (h : bs.length ≠ prm.pL) :
    decodeFrame prm dir bs = .error .lengthMismatch := by simp [decodeFrame, h]

/-- What `decodeFrame` answers on a frame of the right length, by its parts. -/
theorem decodeFrame_parts (dir : Direction) (c cs : Byte) (d : List Byte) (hd : d.length = prm.pD) :
    decodeFrame prm dir (c :: d ++ [cs])
      = if checksum prm (c :: d) ≠ cs then .error .badChecksum
        else if codeInSet dir c then .ok (c, d) else .error .unknownOpcode := by
  have hl : (c :: d ++ [cs]).length = prm.pL := by simp [Params.pL, hd]
  have ht : (c :: d ++ [cs]).take (prm.pL - 1) = c :: d := by simp [Params.pL, ← hd]
  have hg : (c :: d ++ [cs]).getD (prm.pL - 1) 0 = cs := by simp [Params.pL, ← hd]
  have h0 : (c :: d ++ [cs]).getD 0 0 = c := rfl
  have hm : ((c :: d ++ [cs]).drop 1).take prm.pD = d := by simp [← hd]
  unfold decodeFrame
  rw [ht, hg, h0, hm]
  simp only [hl, ne_eq, not_true_eq_false, if_false]
  cases codeInSet dir c <;> simp

/-- Every sequence of the right length has parts. -/
theorem frame_parts (bs : List Byte) (h : bs.length = prm.pL) :
    ∃ c d cs, d.length = prm.pD ∧ bs = c :: d ++ [cs] := by
  match bs with
  | [] => simp [Params.pL] at h
  | c :: t =>
    have ht : t ≠ [] := by rintro rfl; simp [Params.pL] at h
    exact ⟨c, t.dropLast, t.getLast ht, by simp [Params.pL] at h ⊢; omega, by
      simp [List.dropLast_append_getLast ht]⟩

theorem decodeFrame_encodeFrame (dir : Direction) (c : Byte) (d : List Byte) (hd : d.length = prm.pD) :
    decodeFrame prm dir (encodeFrame prm c d) = if codeInSet dir c then .ok (c, d) else .error .unknownOpcode := by
  rw [encodeFrame, decodeFrame_parts prm dir c _ d hd]; simp

/-- `decodeFrame` succeeds on nothing but an encoding with a code of its direction (R96). -/
theorem decodeFrame_ok (dir : Direction) (bs : List Byte) (c : Byte) (d : List Byte)
    (h : decodeFrame prm dir bs = .ok (c, d)) :
    d.length = prm.pD ∧ bs = encodeFrame prm c d ∧ codeInSet dir c = true := by
  by_cases hl : bs.length = prm.pL
  · obtain ⟨c', d', cs, hd, rfl⟩ := frame_parts prm bs hl
    rw [decodeFrame_parts prm dir c' cs d' hd] at h
    split at h
    · cases h
    · split at h
      · rename_i h1 h2
        simp only [Except.ok.injEq, Prod.mk.injEq] at h
        obtain ⟨rfl, rfl⟩ := h
        exact ⟨hd, by rw [encodeFrame]; simp only [ne_eq, not_not] at h1; rw [h1], h2⟩
      · cases h
  · rw [decodeFrame_length prm dir bs hl] at h; cases h

/-- What the request decoder answers (R66, R94). -/
theorem decodeRequest_ok (bs : List Byte) (i : Instr) (h : decodeRequest prm bs = .ok i) :
    ∃ c d, i = Cmd.instr c d ∧ d.length = prm.pD ∧ bs = encodeFrame prm (cmdCode c) d
      ∧ decodeFrame prm .req bs = .ok (cmdCode c, d) := by
  unfold decodeRequest at h
  split at h
  · cases h
  · rename_i code data heq
    obtain ⟨hd, hb, hs⟩ := decodeFrame_ok prm .req bs code data heq
    split at h
    · rename_i c hc
      cases h
      have := cmdOfCode_some code c hc; subst this
      exact ⟨c, data, rfl, hd, hb, heq⟩
    · rename_i hc
      simp [codeInSet, hc] at hs

/-- What the response decoder answers (R67, R94). -/
theorem decodeResponse_ok (bs : List Byte) (i : Instr) (h : decodeResponse prm bs = .ok i) :
    ∃ st d, i = Status.instr st d ∧ d.length = prm.pD ∧ bs = encodeFrame prm (statusCode st) d
      ∧ decodeFrame prm .resp bs = .ok (statusCode st, d) := by
  unfold decodeResponse at h
  split at h
  · cases h
  · rename_i code data heq
    obtain ⟨hd, hb, hs⟩ := decodeFrame_ok prm .resp bs code data heq
    split at h
    · rename_i c hc
      cases h
      have := statusOfCode_some code c hc; subst this
      exact ⟨c, data, rfl, hd, hb, heq⟩
    · rename_i hc
      simp [codeInSet, hc] at hs

theorem decodeRequest_error (bs : List Byte) (e : DecodeError) :
    decodeRequest prm bs = .error e ↔ decodeFrame prm .req bs = .error e := by
  constructor
  · intro h
    unfold decodeRequest at h
    split at h
    · rename_i heq; rw [heq]; simpa using h
    · rename_i code data heq
      obtain ⟨_, _, hs⟩ := decodeFrame_ok prm .req bs code data heq
      split at h
      · cases h
      · rename_i hc; simp [codeInSet, hc] at hs
  · intro h; simp [decodeRequest, h]

theorem decodeResponse_error (bs : List Byte) (e : DecodeError) :
    decodeResponse prm bs = .error e ↔ decodeFrame prm .resp bs = .error e := by
  constructor
  · intro h
    unfold decodeResponse at h
    split at h
    · rename_i heq; rw [heq]; simpa using h
    · rename_i code data heq
      obtain ⟨_, _, hs⟩ := decodeFrame_ok prm .resp bs code data heq
      split at h
      · cases h
      · rename_i hc; simp [codeInSet, hc] at hs
  · intro h; simp [decodeResponse, h]

theorem decodeRequest_of_frame (bs : List Byte) (c : Cmd) (d : List Byte)
    (h : decodeFrame prm .req bs = .ok (cmdCode c, d)) : decodeRequest prm bs = .ok (c.instr d) := by
  simp [decodeRequest, h]

theorem decodeResponse_of_frame (bs : List Byte) (st : Status) (d : List Byte)
    (h : decodeFrame prm .resp bs = .ok (statusCode st, d)) : decodeResponse prm bs = .ok (st.instr d) := by
  simp [decodeResponse, h]

/-! The fields of a control word (R69, R72). -/

theorem packWord_toNat (op sel : BitVec 4) (imm : Byte) :
    (packWord op sel imm).toNat = op.toNat * 4096 + sel.toNat * 256 + imm.toNat := by
  have h1 := sel.isLt
  have h2 := imm.isLt
  simp only [packWord, BitVec.toNat_append]
  rw [← Nat.shiftLeft_add_eq_or_of_lt h2, ← Nat.shiftLeft_add_eq_or_of_lt (by
    simp only [Nat.shiftLeft_eq]; omega)]
  simp only [Nat.shiftLeft_eq]
  omega

theorem wordOp_toNat (cw : ControlWord) : (wordOp cw).toNat = cw.toNat / 4096 := by
  have := cw.isLt
  simp only [wordOp, BitVec.extractLsb'_toNat, Nat.shiftRight_eq_div_pow]; omega

theorem wordSel_toNat (cw : ControlWord) : (wordSel cw).toNat = cw.toNat / 256 % 16 := by
  simp only [wordSel, BitVec.extractLsb'_toNat, Nat.shiftRight_eq_div_pow]

theorem wordImm_toNat (cw : ControlWord) : (wordImm cw).toNat = cw.toNat % 256 := by
  simp only [wordImm, BitVec.extractLsb'_toNat, Nat.shiftRight_eq_div_pow]; simp

@[simp] theorem wordOp_packWord (op sel : BitVec 4) (imm : Byte) : wordOp (packWord op sel imm) = op := by
  apply BitVec.eq_of_toNat_eq
  rw [wordOp_toNat, packWord_toNat]
  omega

@[simp] theorem wordSel_packWord (op sel : BitVec 4) (imm : Byte) : wordSel (packWord op sel imm) = sel := by
  apply BitVec.eq_of_toNat_eq
  rw [wordSel_toNat, packWord_toNat]
  omega

@[simp] theorem wordImm_packWord (op sel : BitVec 4) (imm : Byte) : wordImm (packWord op sel imm) = imm := by
  apply BitVec.eq_of_toNat_eq
  rw [wordImm_toNat, packWord_toNat]
  omega

/-- A control word is its three fields (R69, R72). -/
theorem packWord_fields (cw : ControlWord) : packWord (wordOp cw) (wordSel cw) (wordImm cw) = cw := by
  apply BitVec.eq_of_toNat_eq
  rw [packWord_toNat, wordOp_toNat, wordSel_toNat, wordImm_toNat]
  omega

end Sys2Proof.Laws
end

