-- ==== Sys2Proof/Laws/State.lean ====
section
/-! SUPPORT. One lemma per field of State for each named update, all by rfl, so that no later proof unfolds an update. -/

namespace Sys2Proof.Laws

open Sys2Proof.Machine

variable (s : State)

@[simp] theorem reply_cfg (a : Ack) (v : Byte) : (reply a v s).cfg = s.cfg := rfl
@[simp] theorem reply_h (a : Ack) (v : Byte) : (reply a v s).h = s.h := rfl
@[simp] theorem reply_p (a : Ack) (v : Byte) : (reply a v s).p = s.p := rfl
@[simp] theorem reply_act (a : Ack) (v : Byte) : (reply a v s).act = s.act := rfl
@[simp] theorem reply_link (a : Ack) (v : Byte) : (reply a v s).link = s.link := rfl
@[simp] theorem reply_inputs (a : Ack) (v : Byte) : (reply a v s).inputs = s.inputs := rfl
@[simp] theorem reply_draws (a : Ack) (v : Byte) : (reply a v s).draws = s.draws := rfl
@[simp] theorem reply_drawCount (a : Ack) (v : Byte) : (reply a v s).drawCount = s.drawCount := rfl
@[simp] theorem reply_replies (a : Ack) (v : Byte) : (reply a v s).replies = s.replies ++ [⟨a, v⟩] := rfl

@[simp] theorem setHostState_cfg (st : HostState) : (setHostState st s).cfg = s.cfg := rfl
@[simp] theorem setHostState_h (st : HostState) : (setHostState st s).h = { s.h with state := st } := rfl
@[simp] theorem setHostState_p (st : HostState) : (setHostState st s).p = s.p := rfl
@[simp] theorem setHostState_act (st : HostState) : (setHostState st s).act = s.act := rfl
@[simp] theorem setHostState_link (st : HostState) : (setHostState st s).link = s.link := rfl
@[simp] theorem setHostState_inputs (st : HostState) : (setHostState st s).inputs = s.inputs := rfl
@[simp] theorem setHostState_draws (st : HostState) : (setHostState st s).draws = s.draws := rfl
@[simp] theorem setHostState_drawCount (st : HostState) : (setHostState st s).drawCount = s.drawCount := rfl
@[simp] theorem setHostState_replies (st : HostState) : (setHostState st s).replies = s.replies := rfl

@[simp] theorem setPeriphState_cfg (st : PeriphState) : (setPeriphState st s).cfg = s.cfg := rfl
@[simp] theorem setPeriphState_h (st : PeriphState) : (setPeriphState st s).h = s.h := rfl
@[simp] theorem setPeriphState_p (st : PeriphState) : (setPeriphState st s).p = { s.p with state := st } := rfl
@[simp] theorem setPeriphState_act (st : PeriphState) : (setPeriphState st s).act = s.act := rfl
@[simp] theorem setPeriphState_link (st : PeriphState) : (setPeriphState st s).link = s.link := rfl
@[simp] theorem setPeriphState_inputs (st : PeriphState) : (setPeriphState st s).inputs = s.inputs := rfl
@[simp] theorem setPeriphState_draws (st : PeriphState) : (setPeriphState st s).draws = s.draws := rfl
@[simp] theorem setPeriphState_drawCount (st : PeriphState) : (setPeriphState st s).drawCount = s.drawCount := rfl
@[simp] theorem setPeriphState_replies (st : PeriphState) : (setPeriphState st s).replies = s.replies := rfl

@[simp] theorem keepResponse_cfg (v : Byte) (d : List Byte) : (keepResponse v d s).cfg = s.cfg := rfl
@[simp] theorem keepResponse_h (v : Byte) (d : List Byte) : (keepResponse v d s).h = { s.h with respValid := true, respStatus := v, respData := d } := rfl
@[simp] theorem keepResponse_p (v : Byte) (d : List Byte) : (keepResponse v d s).p = s.p := rfl
@[simp] theorem keepResponse_act (v : Byte) (d : List Byte) : (keepResponse v d s).act = s.act := rfl
@[simp] theorem keepResponse_link (v : Byte) (d : List Byte) : (keepResponse v d s).link = s.link := rfl
@[simp] theorem keepResponse_inputs (v : Byte) (d : List Byte) : (keepResponse v d s).inputs = s.inputs := rfl
@[simp] theorem keepResponse_draws (v : Byte) (d : List Byte) : (keepResponse v d s).draws = s.draws := rfl
@[simp] theorem keepResponse_drawCount (v : Byte) (d : List Byte) : (keepResponse v d s).drawCount = s.drawCount := rfl
@[simp] theorem keepResponse_replies (v : Byte) (d : List Byte) : (keepResponse v d s).replies = s.replies := rfl

@[simp] theorem clearResponse_cfg : (clearResponse s).cfg = s.cfg := rfl
@[simp] theorem clearResponse_h : (clearResponse s).h = { s.h with respValid := false, respStatus := 0x00, respData := zeros s.cfg.pD } := rfl
@[simp] theorem clearResponse_p : (clearResponse s).p = s.p := rfl
@[simp] theorem clearResponse_act : (clearResponse s).act = s.act := rfl
@[simp] theorem clearResponse_link : (clearResponse s).link = s.link := rfl
@[simp] theorem clearResponse_inputs : (clearResponse s).inputs = s.inputs := rfl
@[simp] theorem clearResponse_draws : (clearResponse s).draws = s.draws := rfl
@[simp] theorem clearResponse_drawCount : (clearResponse s).drawCount = s.drawCount := rfl
@[simp] theorem clearResponse_replies : (clearResponse s).replies = s.replies := rfl

@[simp] theorem clearReadBuffer_cfg : (clearReadBuffer s).cfg = s.cfg := rfl
@[simp] theorem clearReadBuffer_h : (clearReadBuffer s).h = { s.h with rxf := zeros s.cfg.pL, rxn := 0 } := rfl
@[simp] theorem clearReadBuffer_p : (clearReadBuffer s).p = s.p := rfl
@[simp] theorem clearReadBuffer_act : (clearReadBuffer s).act = s.act := rfl
@[simp] theorem clearReadBuffer_link : (clearReadBuffer s).link = s.link := rfl
@[simp] theorem clearReadBuffer_inputs : (clearReadBuffer s).inputs = s.inputs := rfl
@[simp] theorem clearReadBuffer_draws : (clearReadBuffer s).draws = s.draws := rfl
@[simp] theorem clearReadBuffer_drawCount : (clearReadBuffer s).drawCount = s.drawCount := rfl
@[simp] theorem clearReadBuffer_replies : (clearReadBuffer s).replies = s.replies := rfl

@[simp] theorem clearCause_cfg : (clearCause s).cfg = s.cfg := rfl
@[simp] theorem clearCause_h : (clearCause s).h = { s.h with cause := 0x00, causeCode := 0x00 } := rfl
@[simp] theorem clearCause_p : (clearCause s).p = s.p := rfl
@[simp] theorem clearCause_act : (clearCause s).act = s.act := rfl
@[simp] theorem clearCause_link : (clearCause s).link = s.link := rfl
@[simp] theorem clearCause_inputs : (clearCause s).inputs = s.inputs := rfl
@[simp] theorem clearCause_draws : (clearCause s).draws = s.draws := rfl
@[simp] theorem clearCause_drawCount : (clearCause s).drawCount = s.drawCount := rfl
@[simp] theorem clearCause_replies : (clearCause s).replies = s.replies := rfl

@[simp] theorem encodeRequest_cfg : (encodeRequest s).cfg = s.cfg := rfl
@[simp] theorem encodeRequest_h : (encodeRequest s).h = { s.h with txf := encodeFrame s.cfg s.h.reqCmd s.h.reqData } := rfl
@[simp] theorem encodeRequest_p : (encodeRequest s).p = s.p := rfl
@[simp] theorem encodeRequest_act : (encodeRequest s).act = s.act := rfl
@[simp] theorem encodeRequest_link : (encodeRequest s).link = s.link := rfl
@[simp] theorem encodeRequest_inputs : (encodeRequest s).inputs = s.inputs := rfl
@[simp] theorem encodeRequest_draws : (encodeRequest s).draws = s.draws := rfl
@[simp] theorem encodeRequest_drawCount : (encodeRequest s).drawCount = s.drawCount := rfl
@[simp] theorem encodeRequest_replies : (encodeRequest s).replies = s.replies := rfl

@[simp] theorem failedEntry_cfg (c : CauseClass) (ph : Phase) (v : Byte) : (failedEntry c ph v s).cfg = s.cfg := rfl
@[simp] theorem failedEntry_h (c : CauseClass) (ph : Phase) (v : Byte) : (failedEntry c ph v s).h = { s.h with cause := causeByte c ph, causeCode := v, state := .failed } := rfl
@[simp] theorem failedEntry_p (c : CauseClass) (ph : Phase) (v : Byte) : (failedEntry c ph v s).p = s.p := rfl
@[simp] theorem failedEntry_act (c : CauseClass) (ph : Phase) (v : Byte) : (failedEntry c ph v s).act = s.act := rfl
@[simp] theorem failedEntry_link (c : CauseClass) (ph : Phase) (v : Byte) : (failedEntry c ph v s).link = s.link := rfl
@[simp] theorem failedEntry_inputs (c : CauseClass) (ph : Phase) (v : Byte) : (failedEntry c ph v s).inputs = s.inputs := rfl
@[simp] theorem failedEntry_draws (c : CauseClass) (ph : Phase) (v : Byte) : (failedEntry c ph v s).draws = s.draws := rfl
@[simp] theorem failedEntry_drawCount (c : CauseClass) (ph : Phase) (v : Byte) : (failedEntry c ph v s).drawCount = s.drawCount := rfl
@[simp] theorem failedEntry_replies (c : CauseClass) (ph : Phase) (v : Byte) : (failedEntry c ph v s).replies = s.replies := rfl

@[simp] theorem returnToIdle_cfg : (returnToIdle s).cfg = s.cfg := rfl
@[simp] theorem returnToIdle_h : (returnToIdle s).h = { s.h with state := .idle } := rfl
@[simp] theorem returnToIdle_p : (returnToIdle s).p = s.p := rfl
@[simp] theorem returnToIdle_act : (returnToIdle s).act = s.act := rfl
@[simp] theorem returnToIdle_link : (returnToIdle s).link = s.link := rfl
@[simp] theorem returnToIdle_inputs : (returnToIdle s).inputs = s.inputs := rfl
@[simp] theorem returnToIdle_draws : (returnToIdle s).draws = s.draws := rfl
@[simp] theorem returnToIdle_drawCount : (returnToIdle s).drawCount = s.drawCount := rfl
@[simp] theorem returnToIdle_replies : (returnToIdle s).replies = s.replies := rfl

@[simp] theorem setResult_cfg (v : Byte) : (setResult v s).cfg = s.cfg := rfl
@[simp] theorem setResult_h (v : Byte) : (setResult v s).h = { s.h with result := v } := rfl
@[simp] theorem setResult_p (v : Byte) : (setResult v s).p = s.p := rfl
@[simp] theorem setResult_act (v : Byte) : (setResult v s).act = s.act := rfl
@[simp] theorem setResult_link (v : Byte) : (setResult v s).link = s.link := rfl
@[simp] theorem setResult_inputs (v : Byte) : (setResult v s).inputs = s.inputs := rfl
@[simp] theorem setResult_draws (v : Byte) : (setResult v s).draws = s.draws := rfl
@[simp] theorem setResult_drawCount (v : Byte) : (setResult v s).drawCount = s.drawCount := rfl
@[simp] theorem setResult_replies (v : Byte) : (setResult v s).replies = s.replies := rfl

@[simp] theorem chooseResponse_cfg (st : Status) (d : List Byte) : (chooseResponse st d s).cfg = s.cfg := rfl
@[simp] theorem chooseResponse_h (st : Status) (d : List Byte) : (chooseResponse st d s).h = s.h := rfl
@[simp] theorem chooseResponse_p (st : Status) (d : List Byte) : (chooseResponse st d s).p = { s.p with rstatus := statusCode st, rdata := d, state := .responding } := rfl
@[simp] theorem chooseResponse_act (st : Status) (d : List Byte) : (chooseResponse st d s).act = s.act := rfl
@[simp] theorem chooseResponse_link (st : Status) (d : List Byte) : (chooseResponse st d s).link = s.link := rfl
@[simp] theorem chooseResponse_inputs (st : Status) (d : List Byte) : (chooseResponse st d s).inputs = s.inputs := rfl
@[simp] theorem chooseResponse_draws (st : Status) (d : List Byte) : (chooseResponse st d s).draws = s.draws := rfl
@[simp] theorem chooseResponse_drawCount (st : Status) (d : List Byte) : (chooseResponse st d s).drawCount = s.drawCount := rfl
@[simp] theorem chooseResponse_replies (st : Status) (d : List Byte) : (chooseResponse st d s).replies = s.replies := rfl

@[simp] theorem refuseFrame_cfg (e : DecodeError) : (refuseFrame e s).cfg = s.cfg := rfl
@[simp] theorem refuseFrame_h (e : DecodeError) : (refuseFrame e s).h = s.h := rfl
@[simp] theorem refuseFrame_p (e : DecodeError) : (refuseFrame e s).p = { s.p with rstatus := statusCode (decodeErrorStatus e), rdata := zeros s.cfg.pD, state := .responding } := rfl
@[simp] theorem refuseFrame_act (e : DecodeError) : (refuseFrame e s).act = s.act := rfl
@[simp] theorem refuseFrame_link (e : DecodeError) : (refuseFrame e s).link = s.link := rfl
@[simp] theorem refuseFrame_inputs (e : DecodeError) : (refuseFrame e s).inputs = s.inputs := rfl
@[simp] theorem refuseFrame_draws (e : DecodeError) : (refuseFrame e s).draws = s.draws := rfl
@[simp] theorem refuseFrame_drawCount (e : DecodeError) : (refuseFrame e s).drawCount = s.drawCount := rfl
@[simp] theorem refuseFrame_replies (e : DecodeError) : (refuseFrame e s).replies = s.replies := rfl

@[simp] theorem refuseResponse_cfg (e : DecodeError) : (refuseResponse e s).cfg = s.cfg := rfl
@[simp] theorem refuseResponse_h (e : DecodeError) : (refuseResponse e s).h = { s.h with cause := 0x80, causeCode := decodeErrorCode e, state := .failed } := rfl
@[simp] theorem refuseResponse_p (e : DecodeError) : (refuseResponse e s).p = s.p := rfl
@[simp] theorem refuseResponse_act (e : DecodeError) : (refuseResponse e s).act = s.act := rfl
@[simp] theorem refuseResponse_link (e : DecodeError) : (refuseResponse e s).link = s.link := rfl
@[simp] theorem refuseResponse_inputs (e : DecodeError) : (refuseResponse e s).inputs = s.inputs := rfl
@[simp] theorem refuseResponse_draws (e : DecodeError) : (refuseResponse e s).draws = s.draws := rfl
@[simp] theorem refuseResponse_drawCount (e : DecodeError) : (refuseResponse e s).drawCount = s.drawCount := rfl
@[simp] theorem refuseResponse_replies (e : DecodeError) : (refuseResponse e s).replies = s.replies := rfl

@[simp] theorem waitStep_cfg : (waitStep s).cfg = s.cfg := rfl
@[simp] theorem waitStep_h : (waitStep s).h = { s.h with state := .reading } := rfl
@[simp] theorem waitStep_p : (waitStep s).p = s.p := rfl
@[simp] theorem waitStep_act : (waitStep s).act = s.act := rfl
@[simp] theorem waitStep_link : (waitStep s).link = s.link := rfl
@[simp] theorem waitStep_inputs : (waitStep s).inputs = s.inputs := rfl
@[simp] theorem waitStep_draws : (waitStep s).draws = s.draws := rfl
@[simp] theorem waitStep_drawCount : (waitStep s).drawCount = s.drawCount := rfl
@[simp] theorem waitStep_replies : (waitStep s).replies = s.replies := rfl

@[simp] theorem respondStep_cfg : (respondStep s).cfg = s.cfg := rfl
@[simp] theorem respondStep_h : (respondStep s).h = s.h := rfl
@[simp] theorem respondStep_p : (respondStep s).p = { s.p with txb := encodeFrame s.cfg s.p.rstatus s.p.rdata, txbValid := true, state := .idle } := rfl
@[simp] theorem respondStep_act : (respondStep s).act = s.act := rfl
@[simp] theorem respondStep_link : (respondStep s).link = linkAnswered s.link := rfl
@[simp] theorem respondStep_inputs : (respondStep s).inputs = s.inputs := rfl
@[simp] theorem respondStep_draws : (respondStep s).draws = s.draws := rfl
@[simp] theorem respondStep_drawCount : (respondStep s).drawCount = s.drawCount := rfl
@[simp] theorem respondStep_replies : (respondStep s).replies = s.replies := rfl

@[simp] theorem resetHost_cfg : (resetHost s).cfg = s.cfg := rfl
@[simp] theorem resetHost_h : (resetHost s).h = HostRegs.reset s.cfg := rfl
@[simp] theorem resetHost_p : (resetHost s).p = s.p := rfl
@[simp] theorem resetHost_act : (resetHost s).act = s.act := rfl
@[simp] theorem resetHost_link : (resetHost s).link = .none := rfl
@[simp] theorem resetHost_inputs : (resetHost s).inputs = s.inputs := rfl
@[simp] theorem resetHost_draws : (resetHost s).draws = s.draws := rfl
@[simp] theorem resetHost_drawCount : (resetHost s).drawCount = s.drawCount := rfl
@[simp] theorem resetHost_replies : (resetHost s).replies = s.replies := rfl

@[simp] theorem resetPeriph_cfg : (resetPeriph s).cfg = s.cfg := rfl
@[simp] theorem resetPeriph_h : (resetPeriph s).h = s.h := rfl
@[simp] theorem resetPeriph_p : (resetPeriph s).p = PeriphRegs.reset s.cfg := rfl
@[simp] theorem resetPeriph_act : (resetPeriph s).act = s.act := rfl
@[simp] theorem resetPeriph_link : (resetPeriph s).link = linkLost s.link := rfl
@[simp] theorem resetPeriph_inputs : (resetPeriph s).inputs = s.inputs := rfl
@[simp] theorem resetPeriph_draws : (resetPeriph s).draws = s.draws := rfl
@[simp] theorem resetPeriph_drawCount : (resetPeriph s).drawCount = s.drawCount := rfl
@[simp] theorem resetPeriph_replies : (resetPeriph s).replies = s.replies := rfl

@[simp] theorem startTransaction_cfg : (startTransaction s).cfg = s.cfg := rfl
@[simp] theorem startTransaction_h : (startTransaction s).h = { s.h with
      waitLat := s.h.waitUs, cause := 0x00, causeCode := 0x00, respValid := false, respStatus := 0x00
      respData := zeros s.cfg.pD, rxf := zeros s.cfg.pL, rxn := 0
      txf := encodeFrame s.cfg s.h.reqCmd s.h.reqData, state := .sending } := rfl
@[simp] theorem startTransaction_p : (startTransaction s).p = s.p := rfl
@[simp] theorem startTransaction_act : (startTransaction s).act = s.act := rfl
@[simp] theorem startTransaction_link : (startTransaction s).link = .none := rfl
@[simp] theorem startTransaction_inputs : (startTransaction s).inputs = s.inputs := rfl
@[simp] theorem startTransaction_draws : (startTransaction s).draws = s.draws := rfl
@[simp] theorem startTransaction_drawCount : (startTransaction s).drawCount = s.drawCount := rfl
@[simp] theorem startTransaction_replies : (startTransaction s).replies = s.replies := rfl

@[simp] theorem deliver_cfg (cuts : List Nat) (bs : List Byte) : (deliver cuts bs s).cfg = s.cfg := rfl
@[simp] theorem deliver_h (cuts : List Nat) (bs : List Byte) : (deliver cuts bs s).h = s.h := rfl
@[simp] theorem deliver_p (cuts : List Nat) (bs : List Byte) : (deliver cuts bs s).p = receiveAll s.cfg s.p (eventsOf s.cfg cuts bs) := rfl
@[simp] theorem deliver_act (cuts : List Nat) (bs : List Byte) : (deliver cuts bs s).act = s.act := rfl
@[simp] theorem deliver_link (cuts : List Nat) (bs : List Byte) : (deliver cuts bs s).link = linkOf s.p (receiveAll s.cfg s.p (eventsOf s.cfg cuts bs)) := rfl
@[simp] theorem deliver_inputs (cuts : List Nat) (bs : List Byte) : (deliver cuts bs s).inputs = s.inputs := rfl
@[simp] theorem deliver_draws (cuts : List Nat) (bs : List Byte) : (deliver cuts bs s).draws = s.draws := rfl
@[simp] theorem deliver_drawCount (cuts : List Nat) (bs : List Byte) : (deliver cuts bs s).drawCount = s.drawCount := rfl
@[simp] theorem deliver_replies (cuts : List Nat) (bs : List Byte) : (deliver cuts bs s).replies = s.replies := rfl

/-! `REQ.SET` (R143) and `CFG.SET` (R144), by their selector. -/

theorem setRequest_command (imm : Byte) : setRequest 0 imm s = { s with h := { s.h with reqCmd := imm } } := rfl

theorem setRequest_data (sel : BitVec 4) (imm : Byte) (h : sel ≠ 0) :
    setRequest sel imm s = { s with h := { s.h with reqData := s.h.reqData.set (sel.toNat - 1) imm } } := if_neg h

theorem setConfig_address (imm : Byte) :
    setConfig 0 imm s = { s with h := { s.h with periphAddr := imm.extractLsb' 0 7 } } := rfl

theorem setConfig_waitLow (imm : Byte) :
    setConfig 1 imm s = { s with h := { s.h with waitUs := s.h.waitUs.extractLsb' 8 8 ++ imm } } := rfl

theorem setConfig_waitHigh (imm : Byte) :
    setConfig 2 imm s = { s with h := { s.h with waitUs := imm ++ s.h.waitUs.extractLsb' 0 8 } } := rfl

end Sys2Proof.Laws
end

