-- ==== Sys2Proof/Laws/Ops.lean ====
section
/-! SUPPORT. What each shared operation of the registers, the draws and the bus can do, said once. -/

namespace Sys2Proof.Laws

open Sys2Proof.Machine

variable (s : State)

/-! The draws. -/

@[simp] theorem takeDraw_cfg : (takeDraw s).2.cfg = s.cfg := by unfold takeDraw; split <;> rfl
@[simp] theorem takeDraw_h : (takeDraw s).2.h = s.h := by unfold takeDraw; split <;> rfl
@[simp] theorem takeDraw_p : (takeDraw s).2.p = s.p := by unfold takeDraw; split <;> rfl
@[simp] theorem takeDraw_act : (takeDraw s).2.act = s.act := by unfold takeDraw; split <;> rfl
@[simp] theorem takeDraw_link : (takeDraw s).2.link = s.link := by unfold takeDraw; split <;> rfl
@[simp] theorem takeDraw_inputs : (takeDraw s).2.inputs = s.inputs := by unfold takeDraw; split <;> rfl
@[simp] theorem takeDraw_replies : (takeDraw s).2.replies = s.replies := by unfold takeDraw; split <;> rfl

theorem takeDraw_fixed (d : Draw) (ds : List Draw) (h : s.draws = d :: ds) :
    takeDraw s = (d, { s with draws := ds }) := by
  simp [takeDraw, h]

theorem takeDraw_free (h : s.draws = []) :
    takeDraw s = (Config.freeDraw s.drawCount, { s with drawCount := s.drawCount + 1 }) := by
  simp [takeDraw, h]

/-- Only draws have been used. -/
def SameButDraws (s u : State) : Prop :=
  u = { s with draws := u.draws, drawCount := u.drawCount }

theorem SameButDraws.rfl (s : State) : SameButDraws s s := Eq.refl _

theorem takeDraw_same : SameButDraws s (takeDraw s).2 := by
  unfold SameButDraws takeDraw; split <;> rfl

/-! The control port (R157). -/

theorem not_inFlight_of_atRest (h : HostRegs) (hs : h.state.atRest) : inFlight h = false := by
  rcases hs with hs | hs | hs <;> simp [inFlight, hs]

theorem inFlight_of_busy (h : HostRegs) (hs : h.state.busy) : inFlight h = true := by
  rcases hs with hs | hs | hs | hs <;> simp [inFlight, hs]

theorem busy_or_atRest (st : HostState) : st.busy ∨ st.atRest := by
  cases st <;> simp [HostState.busy, HostState.atRest]

theorem portOp_accepted (f : State → State) (hs : s.h.state.atRest) :
    portOp true f s = .next (reply .accepted 0x00 (f s)) := by
  simp [portOp, not_inFlight_of_atRest _ hs]

theorem portOp_busy (f : State → State) (hs : s.h.state.busy) :
    portOp true f s = .next (reply .portBusy 0x00 s) := by
  simp [portOp, inFlight_of_busy _ hs]

theorem portOp_illegal (f : State → State) : portOp false f s = .next (reply .illegalCw 0x00 s) := rfl

/-- A control word only replies, or, with no transaction in flight, has its effect and replies. -/
theorem portOp_cases (legal : Bool) (f : State → State) (t : State) (h : portOp legal f s = .next t) :
    (∃ a, t = reply a 0x00 s) ∨ (s.h.state.atRest ∧ t = reply .accepted 0x00 (f s)) := by
  rcases busy_or_atRest s.h.state with hb | hr
  · cases legal
    · exact .inl ⟨_, (Host.Outcome.next.inj h).symm⟩
    · rw [portOp_busy s f hb] at h
      exact .inl ⟨_, (Host.Outcome.next.inj h).symm⟩
  · cases legal
    · exact .inl ⟨_, (Host.Outcome.next.inj h).symm⟩
    · rw [portOp_accepted s f hr] at h
      exact .inr ⟨hr, (Host.Outcome.next.inj h).symm⟩

theorem portRead_cases (legal : Bool) (v : Byte) (t : State) (h : portRead legal v s = .next t) :
    ∃ a w, t = reply a w s := by
  cases legal <;> exact ⟨_, _, (Host.Outcome.next.inj h).symm⟩

/-! The actuator (R124) and the dispatch (R120 to R123). -/

@[simp] theorem invoke_cfg (c : Cmd) (d : List Byte) : (invoke c d s).2.cfg = s.cfg := by
  unfold invoke; split <;> simp
@[simp] theorem invoke_h (c : Cmd) (d : List Byte) : (invoke c d s).2.h = s.h := by
  unfold invoke; split <;> simp
@[simp] theorem invoke_p (c : Cmd) (d : List Byte) : (invoke c d s).2.p = s.p := by
  unfold invoke; split <;> simp
@[simp] theorem invoke_link (c : Cmd) (d : List Byte) : (invoke c d s).2.link = s.link := by
  unfold invoke; split <;> simp
@[simp] theorem invoke_inputs (c : Cmd) (d : List Byte) : (invoke c d s).2.inputs = s.inputs := by
  unfold invoke; split <;> simp
@[simp] theorem invoke_replies (c : Cmd) (d : List Byte) : (invoke c d s).2.replies = s.replies := by
  unfold invoke; split <;> simp

@[simp] theorem actOn_cfg (c : Cmd) (d : List Byte) : (actOn c d s).cfg = s.cfg := by simp [actOn]
@[simp] theorem actOn_h (c : Cmd) (d : List Byte) : (actOn c d s).h = s.h := by simp [actOn]
@[simp] theorem actOn_p (c : Cmd) (d : List Byte) : (actOn c d s).p = { s.p with
    rstatus := statusCode (answerStatus (invoke c d s).1)
    rdata := answerData s.cfg (invoke c d s).1
    state := .responding } := by
  simp [actOn]
@[simp] theorem actOn_link (c : Cmd) (d : List Byte) : (actOn c d s).link = s.link := by simp [actOn]
@[simp] theorem actOn_inputs (c : Cmd) (d : List Byte) : (actOn c d s).inputs = s.inputs := by simp [actOn]
@[simp] theorem actOn_replies (c : Cmd) (d : List Byte) : (actOn c d s).replies = s.replies := by simp [actOn]

/-- All a dispatched command can do. -/
theorem dispatchCommand_cases (c : Cmd) (d : List Byte) :
    (s.p.state ≠ .dispatching ∧ dispatchCommand c d s = s)
    ∨ (s.p.state = .dispatching ∧ d.length ≠ s.cfg.pD ∧ dispatchCommand c d s = refuseFrame .lengthMismatch s)
    ∨ (s.p.state = .dispatching ∧ d.length = s.cfg.pD ∧ validArgs s.cfg c d = true
        ∧ dispatchCommand c d s = actOn c d s)
    ∨ (s.p.state = .dispatching ∧ d.length = s.cfg.pD ∧ validArgs s.cfg c d = false
        ∧ dispatchCommand c d s = chooseResponse .errorOutOfRange (zeros s.cfg.pD) s) := by
  unfold dispatchCommand
  by_cases h1 : s.p.state = .dispatching <;> by_cases h2 : d.length = s.cfg.pD <;>
    by_cases h3 : validArgs s.cfg c d = true <;> simp [h1, h2, h3]

/-- All a decoded response can do (R136). -/
theorem validateStatus_cases (st : Status) (d : List Byte) :
    (s.h.state ≠ .validating ∧ validateStatus st d s = s)
    ∨ (s.h.state = .validating ∧ d.length ≠ s.cfg.pD ∧ validateStatus st d s = refuseResponse .lengthMismatch s)
    ∨ (s.h.state = .validating ∧ d.length = s.cfg.pD ∧ st = .ok
        ∧ validateStatus st d s = setHostState .done (keepResponse 0x80 d s))
    ∨ (s.h.state = .validating ∧ d.length = s.cfg.pD ∧ st ≠ .ok
        ∧ validateStatus st d s = failedEntry .status .write (statusCode st) (keepResponse (statusCode st) d s)) := by
  unfold validateStatus
  by_cases h1 : s.h.state = .validating <;> by_cases h2 : d.length = s.cfg.pD <;>
    by_cases h3 : st = .ok <;> simp [h1, h2, h3, okClass, statusCode]

theorem exec_cmd (c : Cmd) (d : List Byte) : exec (c.instr d) s = .next (dispatchCommand c d s) := by
  cases c <;> rfl

theorem exec_status (st : Status) (d : List Byte) : exec (st.instr d) s = .next (validateStatus st d s) := by
  cases st <;> rfl

/-! Receiving (R114 to R119). -/

theorem receive_busy (prm : Params) (p : PeriphRegs) (bs : List Byte) (last : Bool)
    (h : p.state = .dispatching ∨ p.state = .responding) : receive prm p bs last = { p with overrun := true } := by
  rcases h with h | h <;> simp [receive, h]

/-- What storing bytes changes: the buffer and the count. -/
theorem storeByte_frame (prm : Params) (p : PeriphRegs) (b : Byte) :
    storeByte prm p b = { p with rxb := (storeByte prm p b).rxb, rxn := (storeByte prm p b).rxn } := by
  unfold storeByte; split <;> rfl

theorem storeBytes_frame (prm : Params) (bs : List Byte) : ∀ p : PeriphRegs,
    storeBytes prm p bs = { p with rxb := (storeBytes prm p bs).rxb, rxn := (storeBytes prm p bs).rxn } := by
  induction bs with
  | nil => intro p; rfl
  | cons b bs ih =>
    intro p
    have h := ih (storeByte prm p b)
    rw [storeByte_frame prm p b] at h
    simpa [storeBytes, ← storeByte_frame] using h

@[simp] theorem storeBytes_cons (prm : Params) (p : PeriphRegs) (b : Byte) (bs : List Byte) :
    storeBytes prm p (b :: bs) = storeBytes prm (storeByte prm p b) bs := rfl

@[simp] theorem storeBytes_nil (prm : Params) (p : PeriphRegs) : storeBytes prm p [] = p := rfl

theorem storeBytes_shape (prm : Params) (bs : List Byte) : ∀ p : PeriphRegs, p.rxb.length = prm.pL →
    p.rxn ≤ prm.pL + 1 →
    (storeBytes prm p bs).rxb.length = prm.pL ∧ (storeBytes prm p bs).rxn ≤ prm.pL + 1
    ∧ p.rxn ≤ (storeBytes prm p bs).rxn := by
  induction bs with
  | nil => intro p h1 h2; exact ⟨h1, h2, le_refl _⟩
  | cons b bs ih =>
    intro p h1 h2
    have h := ih (storeByte prm p b)
    unfold storeByte at h
    rw [storeBytes_cons, storeByte]
    split at h <;> rename_i hlt
    · have := h (by simpa using h1) (by simp; omega)
      simp only [hlt, if_true]; exact ⟨this.1, this.2.1, by have := this.2.2; simp at this; omega⟩
    · have := h (by simpa using h1) (by simp)
      simp only [hlt, if_false]; exact ⟨this.1, this.2.1, by have := this.2.2; simp at this; omega⟩

/-- The count of stored bytes without the buffer: it moves by one per byte up to `P_L + 1` (R116). -/
theorem storeBytes_rxn (prm : Params) (bs : List Byte) : ∀ p : PeriphRegs, p.rxn ≤ prm.pL + 1 →
    (storeBytes prm p bs).rxn = min (p.rxn + bs.length) (prm.pL + 1) := by
  induction bs with
  | nil => intro p h; simp; omega
  | cons b bs ih =>
    intro p h
    rw [storeBytes_cons, ih]
    · unfold storeByte; split <;> simp <;> omega
    · unfold storeByte; split <;> simp; omega

/-- The buffer after storing: the bytes from the count on, as far as there is room (R116). -/
theorem storeBytes_rxb (prm : Params) (bs : List Byte) : ∀ p : PeriphRegs, p.rxb.length = prm.pL →
    (storeBytes prm p bs).rxb
      = p.rxb.take p.rxn ++ bs.take (prm.pL - p.rxn) ++ p.rxb.drop (p.rxn + bs.length) := by
  induction bs with
  | nil => intro p h; simp
  | cons b bs ih =>
    intro p h
    rw [storeBytes_cons]
    by_cases hlt : p.rxn < prm.pL
    · have hb : storeByte prm p b = { p with rxb := p.rxb.set p.rxn b, rxn := p.rxn + 1 } := by simp [storeByte, hlt]
      rw [hb, ih _ (by simpa using h)]
      have hsub : prm.pL - p.rxn = (prm.pL - (p.rxn + 1)) + 1 := by omega
      simp only [hsub, List.take_succ_cons, List.length_cons]
      rw [List.take_set, List.drop_set_of_lt (by omega), List.take_add_one, List.getElem?_eq_getElem (by omega)]
      rw [List.set_append_right _ _ (by simp)]
      simp [Nat.min_eq_left (show p.rxn ≤ p.rxb.length by omega), Nat.add_assoc, Nat.add_comm 1]
    · have hb : storeByte prm p b = { p with rxn := prm.pL + 1 } := by simp [storeByte, hlt]
      rw [hb, ih _ (by simpa using h)]
      have e1 : p.rxb.take p.rxn = p.rxb := List.take_of_length_le (by omega)
      have e2 : p.rxb.take (prm.pL + 1) = p.rxb := List.take_of_length_le (by omega)
      simp only [e1, e2]
      have z1 : prm.pL - (prm.pL + 1) = 0 := by omega
      have z2 : prm.pL - p.rxn = 0 := by omega
      rw [z1, z2, List.drop_of_length_le (by omega), List.drop_of_length_le (by simp; omega)]
      simp

theorem endCheck_frame (prm : Params) (last : Bool) (p : PeriphRegs) :
    ∃ st, endCheck prm last p = { p with state := st } := by
  unfold endCheck
  generalize (if prm.partialDelivery then decide (prm.pL ≤ p.rxn) else last) = b
  cases b
  · exact ⟨p.state, rfl⟩
  · exact ⟨.dispatching, rfl⟩

/-- What receive events change: the state, the buffer, the count and `P.OVERRUN` (R114). -/
theorem receive_frame (prm : Params) (p : PeriphRegs) (bs : List Byte) (last : Bool) :
    ∃ st b n o, receive prm p bs last = { p with state := st, rxb := b, rxn := n, overrun := o } := by
  unfold receive
  split
  · rw [storeBytes_frame]
    obtain ⟨st, h⟩ := endCheck_frame prm last { p with
      state := .receiving
      rxb := (storeBytes prm { p with rxn := 0, state := .receiving } bs).rxb
      rxn := (storeBytes prm { p with rxn := 0, state := .receiving } bs).rxn }
    exact ⟨st, _, _, p.overrun, h⟩
  · rw [storeBytes_frame]
    obtain ⟨st, h⟩ := endCheck_frame prm last { p with
      rxb := (storeBytes prm p bs).rxb, rxn := (storeBytes prm p bs).rxn }
    exact ⟨st, _, _, p.overrun, h⟩
  · exact ⟨p.state, p.rxb, p.rxn, true, rfl⟩
  · exact ⟨p.state, p.rxb, p.rxn, true, rfl⟩

@[simp] theorem receiveAll_nil (prm : Params) (p : PeriphRegs) : receiveAll prm p [] = p := rfl

@[simp] theorem receiveAll_cons (prm : Params) (p : PeriphRegs) (e : List Byte × Bool) (es : List (List Byte × Bool)) :
    receiveAll prm p (e :: es) = receiveAll prm (receive prm p e.1 e.2) es := rfl

theorem receives_frame (prm : Params) (es : List (List Byte × Bool)) : ∀ p : PeriphRegs,
    ∃ st b n o, receiveAll prm p es
      = { p with state := st, rxb := b, rxn := n, overrun := o } := by
  induction es with
  | nil => intro p; exact ⟨p.state, p.rxb, p.rxn, p.overrun, rfl⟩
  | cons e es ih =>
    intro p
    obtain ⟨st, b, n, o, h⟩ := receive_frame prm p e.1 e.2
    rw [receiveAll_cons, h]
    obtain ⟨st', b', n', o', h'⟩ := ih { p with state := st, rxb := b, rxn := n, overrun := o }
    exact ⟨st', b', n', o', h'⟩

/-- Receive events at a `P` that dispatches or responds set at most `P.OVERRUN` (R119). -/
theorem receives_busy (prm : Params) (es : List (List Byte × Bool)) : ∀ p : PeriphRegs,
    p.state = .dispatching ∨ p.state = .responding →
    ∃ o, receiveAll prm p es = { p with overrun := p.overrun || o } := by
  induction es with
  | nil => intro p _; exact ⟨false, by simp⟩
  | cons e es ih =>
    intro p h
    obtain ⟨o, ho⟩ := ih { p with overrun := true } h
    exact ⟨true, by rw [receiveAll_cons, receive_busy _ _ _ _ h, ho]; simp⟩

/-! Delivery and the bus primitives (R52, R53). -/

theorem eventsOf_ne_nil (prm : Params) (cs : List Nat) (bs : List Byte) : eventsOf prm cs bs ≠ [] := by
  unfold eventsOf; split
  · cases cs <;> simp [chunksOf]
  · simp

/-- A frame is owed only by a `P` that dispatches or responds (R57, log 6). -/
theorem linkOf_owed (p q : PeriphRegs) (h : linkOf p q = .owed) : q.state = .dispatching ∨ q.state = .responding := by
  unfold linkOf periphListening at h
  cases hq : q.state <;> simp [hq] at h ⊢

/-- A write that a busy `P` discards is owed no response (R119). -/
theorem linkOf_busy (p q : PeriphRegs) (h : p.state = .dispatching ∨ p.state = .responding) : linkOf p q = .none := by
  rcases h with h | h <;> simp [linkOf, periphListening, h]

/-- All a write can do: use draws, then deliver some bytes, or none. -/
theorem busWrite_cases (a : BitVec 7) (bs : List Byte) :
    ∃ u, SameButDraws s u ∧ ((busWrite a bs s).2 = u ∨ ∃ cs b, (busWrite a bs s).2 = deliver cs b u) := by
  unfold busWrite noisyWrite
  split
  · refine ⟨_, takeDraw_same s, ?_⟩
    simp only
    split
    · exact .inr ⟨_, _, rfl⟩
    · exact .inl rfl
  · split
    · exact ⟨s, .rfl s, .inl rfl⟩
    · split
      · exact ⟨_, takeDraw_same s, .inr ⟨_, _, rfl⟩⟩
      · exact ⟨s, .rfl s, .inr ⟨_, _, rfl⟩⟩

/-- All a read can do to the machine: use draws (R51). -/
theorem busRead_same (a : BitVec 7) (n : Nat) : SameButDraws s (busRead a n s).2 := by
  unfold busRead
  split
  · exact takeDraw_same s
  · split
    · exact .rfl s
    · split
      · exact .rfl s
      · exact takeDraw_same s

/-- A read gives the bytes of the transmit buffer, or as many bytes as asked for (R53, R49). -/
theorem busRead_ok (a : BitVec 7) (n : Nat) (bs : List Byte) (h : (busRead a n s).1 = .ok bs) :
    bs = s.p.txb ∨ bs.length = n := by
  have hd : ∀ d : Draw, drawnRead n d = .ok bs → bs.length = n := by
    intro d hd
    unfold drawnRead at hd
    split at hd
    · cases hd; exact fitTo_length n d.bytes
    · cases hd
  unfold busRead at h
  split at h
  · exact .inr (hd _ h)
  · split at h
    · cases h
    · split at h
      · cases h; exact .inl rfl
      · exact .inr (hd _ h)

end Sys2Proof.Laws
end

