-- ==== Sys2Proof/Laws/PerInstr.lean ====
section
/-! SUPPORT. Statements about every instruction as syntax, one lemma per constructor. -/

namespace Sys2Proof.Laws.EncodingShape

open Sys2Proof.Machine

/-- What a code looks like: a control word, or a frame of `P_L` bytes whose code byte has the direction bit of R65. -/
def shaped (prm : Params) (control : Bool) : Code → Prop
  | .word _ => control = true
  | .request bytes => control = false ∧ bytes.length = prm.pL ∧ (bytes.getD 0 0).getLsbD 7 = false
  | .response bytes => control = false ∧ bytes.length = prm.pL ∧ (bytes.getD 0 0).getLsbD 7 = true

/-- The encoding of a well-formed instruction has the shape of its kind (R61, R65, R69). -/
def Statement (i : Instr) : Prop :=
  ∀ prm : Params, i.wellFormed prm = true → shaped prm (isControlWord i) (encode prm i)

theorem crcInit : Statement .crcInit := fun _ _ => rfl

theorem crcUpd (imm : Byte) : Statement (.crcUpd imm) := fun _ _ => rfl

theorem crcFin : Statement .crcFin := fun _ _ => rfl

theorem reqSet (sel : BitVec 4) (imm : Byte) : Statement (.reqSet sel imm) := fun _ _ => rfl

theorem enc : Statement .enc := fun _ _ => rfl

theorem dec : Statement .dec := fun _ _ => rfl

theorem cfgSet (sel : BitVec 4) (imm : Byte) : Statement (.cfgSet sel imm) := fun _ _ => rfl

theorem txn : Statement .txn := fun _ _ => rfl

theorem ack : Statement .ack := fun _ _ => rfl

theorem rd (reg : Byte) : Statement (.rd reg) := fun _ _ => rfl

theorem request_shaped (prm : Params) (code : Byte) (data : List Byte) (h : data.length = prm.pD)
    (hc : code.getLsbD 7 = false) : shaped prm false (.request (encodeFrame prm code data)) :=
  ⟨rfl, by simp [Params.pL, h], by simpa [encodeFrame] using hc⟩

theorem response_shaped (prm : Params) (code : Byte) (data : List Byte) (h : data.length = prm.pD)
    (hc : code.getLsbD 7 = true) : shaped prm false (.response (encodeFrame prm code data)) :=
  ⟨rfl, by simp [Params.pL, h], by simpa [encodeFrame] using hc⟩

theorem ping (data : List Byte) : Statement (.ping data) :=
  fun prm h => request_shaped prm _ data (of_decide_eq_true h) (by decide)

theorem stop (data : List Byte) : Statement (.stop data) :=
  fun prm h => request_shaped prm _ data (of_decide_eq_true h) (by decide)

theorem setSpeed (data : List Byte) : Statement (.setSpeed data) :=
  fun prm h => request_shaped prm _ data (of_decide_eq_true h) (by decide)

theorem getStatus (data : List Byte) : Statement (.getStatus data) :=
  fun prm h => request_shaped prm _ data (of_decide_eq_true h) (by decide)

theorem ok (data : List Byte) : Statement (.ok data) :=
  fun prm h => response_shaped prm _ data (of_decide_eq_true h) (by decide)

theorem errorBadCrc (data : List Byte) : Statement (.errorBadCrc data) :=
  fun prm h => response_shaped prm _ data (of_decide_eq_true h) (by decide)

theorem errorUnknownCommand (data : List Byte) : Statement (.errorUnknownCommand data) :=
  fun prm h => response_shaped prm _ data (of_decide_eq_true h) (by decide)

theorem errorBusy (data : List Byte) : Statement (.errorBusy data) :=
  fun prm h => response_shaped prm _ data (of_decide_eq_true h) (by decide)

theorem errorOutOfRange (data : List Byte) : Statement (.errorOutOfRange data) :=
  fun prm h => response_shaped prm _ data (of_decide_eq_true h) (by decide)

theorem errorDomain (data : List Byte) : Statement (.errorDomain data) :=
  fun prm h => response_shaped prm _ data (of_decide_eq_true h) (by decide)

theorem errorBadLength (data : List Byte) : Statement (.errorBadLength data) :=
  fun prm h => response_shaped prm _ data (of_decide_eq_true h) (by decide)

end Sys2Proof.Laws.EncodingShape
end

