-- ==== Sys2Proof/Laws/Step.lean ====
section
/-! SUPPORT. The step inverted once: everything a step that answers a next state can be. Invariants are derived from
`step_moves` and nothing unfolds `step` or `fetch` again. -/

namespace Sys2Proof.Laws

open Sys2Proof.Machine

/-- What the step makes of what was fetched. -/
def runFetched : Fetched → Result
  | .instr i t => exec i t
  | .effect t => .next t
  | .refusal r => .refused r

theorem step_eq (s : State) : step s = runFetched (fetch s) := by
  unfold step runFetched; cases fetch s <;> rfl

/-- One step of a run that answers a next state. -/
theorem run_next (k : Nat) (s t : State) (h : step s = .next t) : run (k + 1) s = run k t := by
  simp only [run, h]

@[simp] theorem run_zero (s : State) : run 0 s = .next s := rfl

/-- The host's run of `core` is this run. -/
theorem core_run (k : Nat) : ∀ s : State, Sys2Proof.core.run k s = run k s := by
  induction k with
  | zero => intro s; rfl
  | succ k ih =>
    intro s
    cases h : step s with
    | next t =>
      have h' : Sys2Proof.core.step s = .next t := h
      simp only [run, h, ← ih]; simp [Host.Core.run, h']
    | fault f => cases f
    | refused r =>
      have h' : Sys2Proof.core.step s = .refused r := h
      simp only [run, h]; simp [Host.Core.run, h']; rfl

/-- The step on an input. -/
theorem step_input (s : State) (e : Event) (rest : List Event) (h : s.inSpec) (hi : s.inputs = e :: rest) :
    step s = runFetched (fetchEvent e { s with inputs := rest }) := by
  rw [step_eq]; simp [fetch, h.1, h.2, hi]

/-- The step with no input left. -/
theorem step_free (s : State) (h : s.inSpec) (hi : s.inputs = []) : step s = runFetched (fetchFree s) := by
  rw [step_eq]; simp [fetch, h.1, h.2, hi]

/-- The step on a legal control word (R157). -/
theorem step_word (s : State) (cw : ControlWord) (rest : List Event) (i : Instr) (h : s.inSpec)
    (hi : s.inputs = .word cw :: rest) (hd : decodeWord s.cfg cw = .ok i) :
    step s = exec i { s with inputs := rest } := by
  rw [step_input s _ rest h hi]; simp [fetchEvent, fetchWord, hd, runFetched]

/-- What a legal control word does when the port executes it: one of the nine rules, or `RD`, which only replies. -/
inductive WordEffect (s : State) : State → Prop
  | crcInit : WordEffect s { s with h := { s.h with crc := s.cfg.crcInit } }
  | crcUpd (imm : Byte) : WordEffect s { s with h := { s.h with crc := crcUpdate s.cfg s.h.crc imm } }
  | crcFin : WordEffect s { s with h := { s.h with result := s.h.crc ^^^ s.cfg.crcXorout } }
  | reqCmd (imm : Byte) : WordEffect s { s with h := { s.h with reqCmd := imm } }
  | reqData (k : Nat) (imm : Byte) : WordEffect s { s with h := { s.h with reqData := s.h.reqData.set k imm } }
  | enc : WordEffect s (encodeRequest s)
  | decOk (st : Byte) (d : List Byte) (h : decodeFrame s.cfg .resp (readBytes s.h) = .ok (st, d)) :
      WordEffect s (setResult 0x00 (keepResponse st d s))
  | decError (e : DecodeError) (h : decodeFrame s.cfg .resp (readBytes s.h) = .error e) :
      WordEffect s (setResult (decodeErrorCode e) (clearResponse s))
  | address (a : BitVec 7) : WordEffect s { s with h := { s.h with periphAddr := a } }
  | wait (w : BitVec 16) : WordEffect s { s with h := { s.h with waitUs := w } }
  | txn : WordEffect s (startTransaction s)
  | ack : WordEffect s (returnToIdle s)

/-- All a control word can do: reply only, or, with no transaction in flight, have its effect and reply ACCEPTED. -/
theorem word_cases (i : Instr) (s t : State) (hw : isControlWord i = true) (h : exec i s = .next t) :
    (∃ a v, t = reply a v s) ∨ (s.h.state.atRest ∧ ∃ u, WordEffect s u ∧ t = reply .accepted 0x00 u) := by
  have lift : ∀ legal f, portOp legal f s = .next t → (s.h.state.atRest → WordEffect s (f s)) →
      (∃ a v, t = reply a v s) ∨ (s.h.state.atRest ∧ ∃ u, WordEffect s u ∧ t = reply .accepted 0x00 u) := by
    intro legal f hp he
    rcases portOp_cases s legal f t hp with ⟨a, ha⟩ | ⟨hr, ht⟩
    · exact .inl ⟨a, _, ha⟩
    · exact .inr ⟨hr, _, he hr, ht⟩
  cases i <;> simp only [isControlWord, Bool.false_eq_true] at hw
  case crcInit => exact lift true _ (by simpa only [exec, execCrcInit] using h) fun _ => .crcInit
  case crcUpd imm => exact lift true _ (by simpa only [exec, execCrcUpd] using h) fun _ => .crcUpd imm
  case crcFin => exact lift true _ (by simpa only [exec, execCrcFin] using h) fun _ => .crcFin
  case reqSet sel imm =>
    refine lift (reqSelLegal s.cfg sel) _ h fun _ => ?_
    by_cases h0 : sel = 0
    · subst h0; exact .reqCmd imm
    · rw [setRequest_data s sel imm h0]; exact .reqData _ imm
  case enc => exact lift true _ (by simpa only [exec, execEnc] using h) fun _ => .enc
  case dec =>
    refine lift true decodeReadBuffer h fun _ => ?_
    unfold decodeReadBuffer
    split
    · exact .decOk _ _ ‹_›
    · exact .decError _ ‹_›
  case cfgSet sel imm =>
    refine lift (cfgSelLegal sel && cfgImmLegal sel imm) (setConfig sel imm) h fun _ => ?_
    unfold setConfig
    split
    · exact .address _
    · exact .wait _
    · exact .wait _
  case txn => exact lift true _ (by simpa only [exec, execTxn] using h) fun _ => .txn
  case ack => exact lift true _ (by simpa only [exec, execAck] using h) fun _ => .ack
  case rd reg =>
    obtain ⟨a, v, ht⟩ := portRead_cases s (regMapped s.cfg reg) (regRead s.cfg s.h reg) t h
    exact .inl ⟨a, v, ht⟩

/-- A control word decodes to a control-word instruction. -/
theorem decodeWord_isWord (prm : Params) (cw : ControlWord) (i : Instr) (h : decodeWord prm cw = .ok i) :
    isControlWord i = true := by
  unfold decodeWord bareWord at h
  split at h <;> (repeat' (split at h <;> [cases h; skip])) <;> cases h <;> rfl

/-- What one move of `H`, of `P` or of the port does to the machine. -/
inductive Move (s : State) : State → Prop
  | stay : Move s s
  | replies (a : Ack) (v : Byte) : Move s (reply a v s)
  | word (u : State) (hr : s.h.state.atRest) (he : WordEffect s u) : Move s (reply .accepted 0x00 u)
  | send (hs : s.h.state = .sending) : Move s (sendStep s)
  | wait (hs : s.h.state = .waiting) : Move s (waitStep s)
  | read (hs : s.h.state = .reading) (he : readEnabled s = true) :
      Move s (afterRead (busRead s.h.periphAddr s.cfg.pL s).1 (busRead s.h.periphAddr s.cfg.pL s).2)
  | validate (hs : s.h.state = .validating) (st : Status) (d : List Byte) (hl : d.length = s.cfg.pD)
      (hd : decodeFrame s.cfg .resp (readBytes s.h) = .ok (statusCode st, d)) : Move s (validateStatus st d s)
  | validateError (hs : s.h.state = .validating) (e : DecodeError)
      (hd : decodeFrame s.cfg .resp (readBytes s.h) = .error e) : Move s (refuseResponse e s)
  | dispatch (hs : s.p.state = .dispatching) (c : Cmd) (d : List Byte) (hl : d.length = s.cfg.pD) :
      Move s (dispatchCommand c d s)
  | dispatchError (hs : s.p.state = .dispatching) (e : DecodeError) : Move s (refuseFrame e s)
  | respond (hs : s.p.state = .responding) : Move s (respondStep s)

theorem word_move (cw : ControlWord) (s t : State) (h : runFetched (fetchWord cw s) = .next t) : Move s t := by
  unfold fetchWord at h
  split at h
  · rename_i i hi
    rcases word_cases i s t (decodeWord_isWord _ _ _ hi) h with ⟨a, v, rfl⟩ | ⟨hr, u, he, rfl⟩
    · exact .replies a v
    · exact .word u hr he
  · cases h; exact .replies _ _

theorem host_move (s t : State) (h : runFetched (fetchHost s) = .next t) : Move s t := by
  unfold fetchHost at h
  split at h <;> rename_i hs
  · cases h; exact .send hs
  · cases h; exact .wait hs
  · split at h <;> rename_i he
    · unfold readStep readStepOf at h
      simp only [ne_eq, not_true_eq_false, if_false] at h
      cases h; exact .read hs he
    · cases h; exact .stay
  · unfold validateStep at h
    split at h
    · rename_i i hi
      obtain ⟨st, d, rfl, hl, _, hf⟩ := decodeResponse_ok _ _ _ hi
      have h' : exec (st.instr d) s = .next t := h
      rw [exec_status] at h'; cases h'; exact .validate hs st d hl hf
    · rename_i e he
      cases h; exact .validateError hs e ((decodeResponse_error _ _ _).1 he)
  all_goals (cases h; exact .stay)

theorem periph_move (s t : State) (h : runFetched (fetchPeriph s) = .next t) : Move s t := by
  unfold fetchPeriph at h
  split at h <;> rename_i hs
  · unfold dispatchStep at h
    split at h
    · rename_i i hi
      unfold decodeReceived at hi
      split at hi
      · obtain ⟨c, d, rfl, hl, _⟩ := decodeRequest_ok _ _ _ hi
        have h' : exec (c.instr d) s = .next t := h
        rw [exec_cmd] at h'; cases h'; exact .dispatch hs c d hl
      · cases hi
    · cases h; exact .dispatchError hs _
  · cases h; exact .respond hs
  all_goals (cases h; exact .stay)

/-- What a step of `H` leaves alone, and what it does to `P`: receive events inside SEND, or nothing (R51, R54). -/
theorem host_frame (s t : State) (h : runFetched (fetchHost s) = .next t) :
    t.cfg = s.cfg ∧ t.act = s.act ∧ t.replies = s.replies ∧ t.inputs = s.inputs ∧
    (t.p = s.p ∨ s.h.state = .sending ∧ ∃ cs b,
      t.p = receiveAll s.cfg s.p (eventsOf s.cfg cs b)) := by
  unfold fetchHost at h
  split at h <;> rename_i hs
  · cases h
    obtain ⟨u, hu, hc⟩ := busWrite_cases s s.h.periphAddr s.h.txf
    have hz : ∀ r z, (afterWrite r z).cfg = z.cfg ∧ (afterWrite r z).act = z.act ∧ (afterWrite r z).replies = z.replies ∧ (afterWrite r z).inputs = z.inputs ∧ (afterWrite r z).p = z.p := by
      intro r z; cases r <;> simp [afterWrite]
    unfold SameButDraws at hu
    unfold sendStep
    obtain ⟨z1, z2, z3, z4, z5⟩ := hz (busWrite s.h.periphAddr s.h.txf s).1 (busWrite s.h.periphAddr s.h.txf s).2
    rw [z1, z2, z3, z4, z5]
    rcases hc with hc | ⟨cs, b, hc⟩ <;> rw [hc]
    · rw [hu]; simp
    · rw [hu]; refine ⟨rfl, rfl, rfl, rfl, .inr ⟨hs, cs, b, ?_⟩⟩; simp
  · cases h; simp [waitStep]
  · split at h
    · unfold readStep readStepOf at h
      simp only [ne_eq, not_true_eq_false, if_false] at h
      cases h
      have hu := busRead_same s s.h.periphAddr s.cfg.pL
      unfold SameButDraws at hu
      have hz : ∀ r z, (afterRead r z).cfg = z.cfg ∧ (afterRead r z).act = z.act ∧ (afterRead r z).replies = z.replies ∧ (afterRead r z).inputs = z.inputs ∧ (afterRead r z).p = z.p := by
        intro r z; cases r <;> simp [afterRead]
      obtain ⟨z1, z2, z3, z4, z5⟩ := hz (busRead s.h.periphAddr s.cfg.pL s).1 (busRead s.h.periphAddr s.cfg.pL s).2
      rw [z1, z2, z3, z4, z5]
      rw [hu]; simp
    · cases h; simp
  · unfold validateStep at h
    split at h
    · rename_i i hi
      obtain ⟨st, d, rfl, hl, _, hf⟩ := decodeResponse_ok _ _ _ hi
      have h' : exec (st.instr d) s = .next t := h
      rw [exec_status] at h'; cases h'
      rcases validateStatus_cases s st d with ⟨_, h⟩ | ⟨_, _, h⟩ | ⟨_, _, _, h⟩ | ⟨_, _, _, h⟩ <;> rw [h] <;> simp [refuseResponse]
    · cases h; simp [refuseResponse]
  all_goals (cases h; simp)

/-- What a control word leaves alone. -/
theorem word_frame (s t : State) (cw : ControlWord) (h : runFetched (fetchWord cw s) = .next t) :
    t.cfg = s.cfg ∧ t.p = s.p ∧ t.act = s.act ∧ t.draws = s.draws ∧ t.drawCount = s.drawCount ∧ t.inputs = s.inputs := by
  unfold fetchWord at h
  split at h
  · rename_i i hi
    rcases word_cases i s t (decodeWord_isWord _ _ _ hi) h with ⟨a, v, rfl⟩ | ⟨hr, u, he, rfl⟩
    · simp
    · cases he <;> simp [encodeRequest, startTransaction]
  · cases h; simp

/-- What a step of `P` leaves alone. -/
theorem periph_frame (s t : State) (h : runFetched (fetchPeriph s) = .next t) :
    t.cfg = s.cfg ∧ t.h = s.h ∧ t.replies = s.replies ∧ t.inputs = s.inputs := by
  unfold fetchPeriph at h
  split at h <;> rename_i hs
  · unfold dispatchStep at h
    split at h
    · rename_i i hi
      unfold decodeReceived at hi
      split at hi
      · obtain ⟨c, d, rfl, hl, _⟩ := decodeRequest_ok _ _ _ hi
        have h' : exec (c.instr d) s = .next t := h
        rw [exec_cmd] at h'; cases h'
        rcases dispatchCommand_cases s c d with ⟨_, h⟩ | ⟨_, _, h⟩ | ⟨_, _, _, h⟩ | ⟨_, _, _, h⟩ <;> rw [h] <;> simp [refuseFrame]
      · cases hi
    · cases h; simp [refuseFrame]
  · cases h; simp [respondStep]
  all_goals (cases h; simp)

/-- The DISPATCH step always chooses a response (R129). -/
theorem dispatch_responds (s : State) (h3 : s.p.state = .dispatching) : ∃ t, runFetched (fetchPeriph s) = .next t ∧ t.p.state = .responding ∧
    (statusOfCode t.p.rstatus).isSome ∧ t.p.rdata.length = s.cfg.pD ∧ t.p.rxb = s.p.rxb ∧ t.p.rxn = s.p.rxn ∧ t.p.txb = s.p.txb ∧ t.p.txbValid = s.p.txbValid := by
  simp only [fetchPeriph, h3, dispatchStep]
  cases hd : decodeReceived s.cfg s.p with
  | ok i =>
    unfold decodeReceived at hd
    split at hd
    · obtain ⟨c, d, rfl, hl, _⟩ := decodeRequest_ok _ _ _ hd
      refine ⟨_, exec_cmd s c d, ?_⟩
      rcases dispatchCommand_cases s c d with ⟨h, _⟩ | ⟨_, h, _⟩ | ⟨_, _, _, h⟩ | ⟨_, _, _, h⟩
      · contradiction
      · contradiction
      · rw [h]; simp; cases (invoke c d s).1 <;> simp [answerData]
      · rw [h]; simp
    · cases hd
  | error e => exact ⟨_, rfl, by simp [refuseFrame]⟩

/-- A state as it is when the move begins: the input taken off the queue, a draw perhaps used for the order. -/
def SameButQueues (s u : State) : Prop :=
  u = { s with inputs := u.inputs, draws := u.draws, drawCount := u.drawCount }

theorem SameButQueues.of_takeDraw (s : State) : SameButQueues s (takeDraw s).2 := by
  unfold SameButQueues takeDraw; split <;> rfl

/-- What a reset input does (R167). -/
inductive ResetMove (s : State) : State → Prop
  | host (rest : List Event) (hi : s.inputs = .resetHost :: rest) : ResetMove s (resetHost { s with inputs := rest })
  | periph (rest : List Event) (hi : s.inputs = .resetPeriph :: rest) :
      ResetMove s (resetPeriph { s with inputs := rest })
  | power (rest : List Event) (hi : s.inputs = .powerOn :: rest) :
      ResetMove s (resetPeriph (resetHost { s with inputs := rest }))

/-- Every step that answers a next state is a reset or one move. -/
theorem step_moves (s t : State) (h : step s = .next t) :
    s.inSpec ∧ (ResetMove s t ∨ ∃ u, SameButQueues s u ∧ Move u t) := by
  rw [step_eq] at h
  unfold fetch at h
  split at h
  · cases h
  · split at h
    · cases h
    · rename_i h1 h2
      refine ⟨⟨by simpa using h1, by simpa using h2⟩, ?_⟩
      split at h
      · rename_i e rest hi
        cases e with
        | word cw => exact .inr ⟨{ s with inputs := rest }, rfl, word_move cw _ t h⟩
        | host => exact .inr ⟨{ s with inputs := rest }, rfl, host_move _ t h⟩
        | periph => exact .inr ⟨{ s with inputs := rest }, rfl, periph_move _ t h⟩
        | resetHost => cases h; exact .inl (.host rest hi)
        | resetPeriph => cases h; exact .inl (.periph rest hi)
        | powerOn => cases h; exact .inl (.power rest hi)
      · unfold fetchFree at h
        split at h
        · split at h
          · refine .inr ⟨(takeDraw s).2, SameButQueues.of_takeDraw s, ?_⟩
            split at h
            · exact host_move _ t h
            · exact periph_move _ t h
          · exact .inr ⟨s, rfl, host_move s t h⟩
        · split at h
          · exact .inr ⟨s, rfl, periph_move s t h⟩
          · cases h; exact .inr ⟨s, rfl, .stay⟩

end Sys2Proof.Laws
end

