-- ==== Sys2Proof/Tests/Slice0.lean ====
section
/-! SUPPORT. Own tests. Expected values are those of `95_test_vectors.md` or written out from the encoding tables.
The last part shows, for every statement with hypotheses, a state and operands that meet them all. -/

namespace Sys2Proof.Tests

open Sys2Proof Sys2Proof.Machine

/-! ### Helpers -/

/-- The parameters of `95_test_vectors.md`. -/
def tp : Params where
  pD := 2
  speedMax := 100
  crcPoly := 0x07
  crcInit := 0x00
  crcReflect := false
  crcXorout := 0x00
  ownAddr := 0x44
  partialDelivery := false
  busNoise := false
  delaySufficient := false
  actuator := .stub

/-- Two more data bytes than the default geometry. -/
def tp4 : Params := { tp with pD := 4 }

/-- `H` in a state, with the SET_SPEED request of L1.6 loaded and `P` idle. -/
def hostAt (st : HostState) : State :=
  { State.resetWith tp with
    h := { HostRegs.reset tp with
      state := st, reqCmd := 0x03, reqData := [0x32, 0x00], txf := [0x03, 0x32, 0x00, 0x6E]
      periphAddr := 0x44, waitUs := 0x01F4, waitLat := 0x01F4 } }

/-- `P` holds received bytes and will dispatch them. -/
def received (bytes : List Byte) (s : State) : State :=
  { s with p := { s.p with rxb := fitTo s.cfg.pL bytes, rxn := bytes.length, state := .dispatching } }

/-- `H` has read bytes and will validate them. -/
def hasRead (bytes : List Byte) (s : State) : State :=
  { s with h := { s.h with rxf := bytes, rxn := 4, state := .validating } }

/-- `P` has committed a response. -/
def committed (bytes : List Byte) (s : State) : State :=
  { s with p := { s.p with txb := bytes, txbValid := true } }

def asked (es : List Event) (s : State) : State := { s with inputs := es }

def drawing (d : Draw) (s : State) : State := { s with draws := [d] }

def under (prm : Params) (s : State) : State := { s with cfg := prm }

def someDraw : Draw := ⟨none, true, [0x03, 0x32, 0x01, 0x6E], [], .pending, true⟩

/-- The next state of an outcome. -/
def nextOf : Result → Option State
  | .next t => some t
  | .fault _ => none
  | .refused _ => none

/-- The word at the port of `s`: the last acknowledge, the read value, and the host registers. -/
def port (cw : ControlWord) (s : State) : Option (Option Reply × HostRegs) :=
  (nextOf (step (asked [.word cw] s))).map fun t => (t.replies.getLast?, t.h)

/-! ### Well-formedness: an ill-formed term for each check -/

theorem test_ill_reqSet : (Instr.reqSet 3 0x01).wellFormed tp = false := by decide +kernel
theorem test_ill_cfgSet_selector : (Instr.cfgSet 3 0x00).wellFormed tp = false := by decide +kernel
theorem test_ill_cfgSet_address : (Instr.cfgSet 0 0x80).wellFormed tp = false := by decide +kernel
theorem test_ill_rd : ([0x0E, 0x0F, 0x13, 0x24, 0x34, 0x42, 0x50, 0xFF] : List Byte).all
    (fun n => !(Instr.rd n).wellFormed tp) = true := by decide +kernel
theorem test_ill_request : ∀ c : Cmd, (c.instr [0x00]).wellFormed tp = false := by intro c; cases c <;> decide +kernel
theorem test_ill_response : ∀ st : Status, (st.instr [0x00, 0x00, 0x00]).wellFormed tp = false := by
  intro st; cases st <;> decide +kernel
theorem test_well_formed_at_the_bounds : (Instr.reqSet 2 0xFF).wellFormed tp = true
    ∧ (Instr.cfgSet 2 0xFF).wellFormed tp = true ∧ (Instr.cfgSet 0 0x7F).wellFormed tp = true
    ∧ (Instr.rd 0x41).wellFormed tp = true ∧ (Instr.rd 0x0D).wellFormed tp = true := by decide +kernel

/-! ### Decoding: a word for every constructor, from the tables of R66, R67 and R70 -/

theorem test_decode_crcInit : decodeTableWord 16 0x1000 = some .crcInit := by decide +kernel
theorem test_decode_crcUpd : decodeTableWord 16 0x2032 = some (.crcUpd 0x32) := by decide +kernel
theorem test_decode_crcFin : decodeTableWord 16 0x3000 = some .crcFin := by decide +kernel
theorem test_decode_reqSet : decodeTableWord 16 0x4132 = some (.reqSet 1 0x32) := by decide +kernel
theorem test_decode_enc : decodeTableWord 16 0x5000 = some .enc := by decide +kernel
theorem test_decode_dec : decodeTableWord 16 0x6000 = some .dec := by decide +kernel
theorem test_decode_cfgSet : decodeTableWord 16 0x7201 = some (.cfgSet 2 0x01) := by decide +kernel
theorem test_decode_txn : decodeTableWord 16 0x8000 = some .txn := by decide +kernel
theorem test_decode_ack : decodeTableWord 16 0x9000 = some .ack := by decide +kernel
theorem test_decode_rd : decodeTableWord 16 0xA007 = some (.rd 0x07) := by decide +kernel
theorem test_decode_ping : decodeTableWord 32 0x0100006B = some (.ping [0x00, 0x00]) := by decide +kernel
theorem test_decode_stop : decodeTableWord 32 0x02FFFFF2 = some (.stop [0xFF, 0xFF]) := by decide +kernel
theorem test_decode_setSpeed : decodeTableWord 32 0x0364011B = some (.setSpeed [0x64, 0x01]) := by decide +kernel
theorem test_decode_getStatus : decodeTableWord 32 0x040000AB = some (.getStatus [0x00, 0x00]) := by decide +kernel
theorem test_decode_ok : decodeTableWord 32 0x806401AD = some (.ok [0x64, 0x01]) := by decide +kernel
theorem test_decode_errorBadCrc : decodeTableWord 32 0x81000060 = some (.errorBadCrc [0x00, 0x00]) := by decide +kernel
theorem test_decode_errorUnknownCommand :
    decodeTableWord 32 0x820000DD = some (.errorUnknownCommand [0x00, 0x00]) := by decide +kernel
theorem test_decode_errorBusy : decodeTableWord 32 0x830000B6 = some (.errorBusy [0x00, 0x00]) := by decide +kernel
theorem test_decode_errorOutOfRange :
    decodeTableWord 32 0x840000A0 = some (.errorOutOfRange [0x00, 0x00]) := by decide +kernel
theorem test_decode_errorDomain : decodeTableWord 32 0x850000CB = some (.errorDomain [0x00, 0x00]) := by decide +kernel
theorem test_decode_errorBadLength :
    decodeTableWord 32 0x86000076 = some (.errorBadLength [0x00, 0x00]) := by decide +kernel

/-- L2.6: the illegal words. -/
theorem test_illegal_words :
    ([0x0000, 0xB000, 0xF123, 0x1001, 0x2100, 0x4300, 0x7300, 0x7080, 0xA00E, 0xA050, 0xA042, 0xA100]
      : List ControlWord).all (fun cw => (decodeWord tp cw).toOption.isNone) = true := by decide +kernel

/-- L2.2.2, the request rows that fail. -/
theorem test_decode_request_errors :
    decodeFrame tp .req [0x03, 0x32, 0x00] = .error .lengthMismatch
    ∧ decodeFrame tp .req [] = .error .lengthMismatch
    ∧ decodeFrame tp .req [0x03, 0x32, 0x00, 0x6F] = .error .badChecksum
    ∧ decodeFrame tp .req [0x05, 0x00, 0x00, 0x00] = .error .badChecksum
    ∧ decodeFrame tp .req [0x05, 0x00, 0x00, 0xC0] = .error .unknownOpcode
    ∧ decodeFrame tp .req [0x00, 0x00, 0x00, 0x00] = .error .unknownOpcode
    ∧ decodeFrame tp .req [0x80, 0x32, 0x00, 0xD8] = .error .unknownOpcode := by decide +kernel

/-- L2.2.2, the response rows. -/
theorem test_decode_response_rows :
    decodeFrame tp .resp [0x80, 0x32, 0x00, 0xD8] = .ok (0x80, [0x32, 0x00])
    ∧ decodeFrame tp .resp [0x86, 0x00, 0x00, 0x76] = .ok (0x86, [0x00, 0x00])
    ∧ decodeFrame tp .resp [0x03, 0x32, 0x00, 0x6E] = .error .unknownOpcode
    ∧ decodeFrame tp .resp [0x80, 0x32, 0x00, 0xD9] = .error .badChecksum := by decide +kernel

/-! ### Checksum -/

/-- L2.1.1. -/
theorem test_table : (crcTable tp).take 16
      = [0x00, 0x07, 0x0E, 0x09, 0x1C, 0x1B, 0x12, 0x15, 0x38, 0x3F, 0x36, 0x31, 0x24, 0x23, 0x2A, 0x2D]
    ∧ tableEntry tp 0x3B = 0xA1 ∧ tableEntry tp 0x80 = 0x89 ∧ tableEntry tp 0xFF = 0xF3 := by decide +kernel

/-- L2.1.2: "123456789", the empty sequence, and L2.1.6. -/
theorem test_checksum : checksum tp [0x31, 0x32, 0x33, 0x34, 0x35, 0x36, 0x37, 0x38, 0x39] = 0xF4
    ∧ checksum tp [] = 0x00 ∧ checksum tp [0xC1, 0x72, 0x00] = 0x6E := by decide +kernel

/-! ### Control words, one step each (L2.1.7, L2.2.3, L2.5.2, L2.6) -/

theorem test_crcInit : (port 0x1000 { hostAt .idle with h := { (hostAt .idle).h with crc := 0x6E } }).map
    (fun r => (r.1, r.2.crc)) = some (some ⟨.accepted, 0x00⟩, 0x00) := by decide +kernel
theorem test_crcUpd : (port 0x2032 { hostAt .done with h := { (hostAt .done).h with crc := 0x09 } }).map
    (fun r => (r.2.crc, r.2.state)) = some (0xA1, .done) := by decide +kernel
theorem test_crcUpd_busy : (port 0x2001 (hostAt .waiting)).map (fun r => (r.1, r.2.crc))
    = some (some ⟨.portBusy, 0x00⟩, 0x00) := by decide +kernel
theorem test_crcFin : (port 0x3000 { hostAt .idle with h := { (hostAt .idle).h with crc := 0x6E } }).map
    (fun r => (r.2.crc, r.2.result)) = some (0x6E, 0x6E) := by decide +kernel
theorem test_reqSet_data : (port 0x4201 (hostAt .idle)).map (fun r => (r.2.reqCmd, r.2.reqData))
    = some (0x03, [0x32, 0x01]) := by decide +kernel
theorem test_reqSet_command : (port 0x4005 (hostAt .failed)).map (fun r => (r.2.reqCmd, r.2.reqData))
    = some (0x05, [0x32, 0x00]) := by decide +kernel
theorem test_enc : (port 0x5000 { hostAt .idle with h := { (hostAt .idle).h with txf := [] } }).map
    (fun r => (r.2.txf, r.2.state)) = some ([0x03, 0x32, 0x00, 0x6E], .idle) := by decide +kernel
theorem test_dec_after_reset : (port 0x6000 (State.resetWith tp)).map (fun r => (r.2.result, r.2.respValid))
    = some (0x01, false) := by decide +kernel
theorem test_dec : (port 0x6000 { hostAt .idle with
      h := { (hostAt .idle).h with rxf := [0x82, 0x00, 0x00, 0xDD], rxn := 4, result := 0x6E } }).map
    (fun r => (r.2.respValid, r.2.respStatus, r.2.result)) = some (true, 0x82, 0x00) := by decide +kernel
theorem test_cfgSet_address : (port 0x707F (hostAt .idle)).map (fun r => r.2.periphAddr) = some 0x7F := by decide +kernel
theorem test_cfgSet_half : (port 0x7100 (hostAt .idle)).map (fun r => r.2.waitUs) = some 0x0100 := by decide +kernel
theorem test_txn : (port 0x8000 { hostAt .done with
      h := { (hostAt .done).h with respValid := true, respStatus := 0x80, cause := 0xC0, waitLat := 0 } }).map
    (fun r => (r.2.state, r.2.waitLat, r.2.respValid, r.2.respStatus, r.2.cause))
    = some (.sending, 0x01F4, false, 0x00, 0x00) := by decide +kernel
theorem test_txn_busy : (port 0x8000 (hostAt .waiting)).map (fun r => (r.1, r.2.state))
    = some (some ⟨.portBusy, 0x00⟩, .waiting) := by decide +kernel
theorem test_ack : (port 0x9000 { hostAt .failed with h := { (hostAt .failed).h with cause := 0xC0 } }).map
    (fun r => (r.2.state, r.2.cause)) = some (.idle, 0xC0) := by decide +kernel
theorem test_ack_busy : (port 0x9000 (hostAt .validating)).map (fun r => (r.1, r.2.state))
    = some (some ⟨.portBusy, 0x00⟩, .validating) := by decide +kernel
theorem test_rd_state : (port 0xA000 (hostAt .reading)).map (fun r => r.1) = some (some ⟨.accepted, 0x03⟩) := by
  decide +kernel
theorem test_rd_unmapped : (port 0xA00E (hostAt .idle)).map (fun r => r.1) = some (some ⟨.illegalCw, 0x00⟩) := by
  decide +kernel
theorem test_illegal_before_busy : (port 0x0000 (hostAt .waiting)).map (fun r => r.1)
    = some (some ⟨.illegalCw, 0x00⟩) := by decide +kernel

/-! ### Request frames, one dispatch each (L2.3, L2.4) -/

/-- The response `P` chooses for received bytes, and the stub after it. -/
def answered (bytes : List Byte) (a : StubRegs) : Option (Byte × List Byte × StubRegs) :=
  (nextOf (step (asked [.periph] { received bytes (hostAt .idle) with act := a }))).map
    fun t => (t.p.rstatus, t.p.rdata, t.act)

theorem test_ping : answered [0x01, 0x32, 0x00, 0xB8] ⟨0x64, 0x01⟩ = some (0x80, [0x00, 0x00], ⟨0x64, 0x01⟩) := by
  decide +kernel
theorem test_stop : answered [0x02, 0xFF, 0xFF, 0xF2] ⟨0x64, 0x01⟩ = some (0x80, [0x00, 0x00], ⟨0x00, 0x01⟩) := by
  decide +kernel
theorem test_setSpeed : answered [0x03, 0x64, 0x01, 0x1B] ⟨0x00, 0x00⟩ = some (0x80, [0x64, 0x01], ⟨0x64, 0x01⟩) := by
  decide +kernel
theorem test_setSpeed_out_of_range : answered [0x03, 0x65, 0x00, 0x09] ⟨0x64, 0x01⟩
      = some (0x84, [0x00, 0x00], ⟨0x64, 0x01⟩)
    ∧ answered [0x03, 0x32, 0x02, 0x60] ⟨0x64, 0x01⟩ = some (0x84, [0x00, 0x00], ⟨0x64, 0x01⟩) := by decide +kernel
theorem test_getStatus : answered [0x04, 0x00, 0x00, 0xAB] ⟨0x00, 0x01⟩ = some (0x80, [0x00, 0x01], ⟨0x00, 0x01⟩) := by
  decide +kernel
theorem test_undecodable : answered [0x03, 0x32, 0x01, 0x6E] ⟨0, 0⟩ = some (0x81, [0x00, 0x00], ⟨0, 0⟩)
    ∧ answered [0x05, 0x00, 0x00, 0xC0] ⟨0, 0⟩ = some (0x82, [0x00, 0x00], ⟨0, 0⟩)
    ∧ answered [0x03, 0x32, 0x00] ⟨0, 0⟩ = some (0x86, [0x00, 0x00], ⟨0, 0⟩)
    ∧ answered [0x03, 0x32, 0x00, 0x6E, 0x00] ⟨0, 0⟩ = some (0x86, [0x00, 0x00], ⟨0, 0⟩) := by decide +kernel
theorem test_pending : (nextOf (exec (.stop [0, 0]) (drawing someDraw (under { tp with actuator := .oracle }
      (received [0x02, 0x00, 0x00, 0xD6] (hostAt .idle)))))).map (fun t => (t.p.rstatus, t.draws))
    = some (0x83, []) := by decide +kernel

/-- L2.4: the receive events of the partial rows. -/
theorem test_partial_receive :
    let q := { tp with partialDelivery := true }
    let p1 := receive q (PeriphRegs.reset tp) [0x03, 0x32] false
    let p2 := receive q p1 [0x00, 0x6E] true
    (p1.state, p1.rxn) = (.receiving, 2)
    ∧ (p2.state, p2.rxn, p2.rxb) = (.dispatching, 4, [0x03, 0x32, 0x00, 0x6E])
    ∧ (receive q p2 [0xFF] true) = { p2 with overrun := true } := by decide +kernel
theorem test_respond : (nextOf (step (asked [.periph] { hostAt .idle with
      p := { PeriphRegs.reset tp with state := .responding, rstatus := 0x80, rdata := [0x64, 0x01] } }))).map
    (fun t => (t.p.txb, t.p.txbValid, t.p.state)) = some ([0x80, 0x64, 0x01, 0xAD], true, .idle) := by decide +kernel

/-! ### Response frames, one validation each (L2.5.1) -/

/-- What `H` makes of read bytes. -/
def validated (bytes : List Byte) : Option (HostState × Byte × Byte × Bool) :=
  (nextOf (step (asked [.host] (hasRead bytes (hostAt .reading))))).map
    fun t => (t.h.state, t.h.cause, t.h.causeCode, t.h.respValid)

theorem test_ok : validated [0x80, 0x32, 0x00, 0xD8] = some (.done, 0x00, 0x00, true) := by decide +kernel
theorem test_errorBadCrc : validated [0x81, 0x00, 0x00, 0x60] = some (.failed, 0xC0, 0x81, true) := by decide +kernel
theorem test_errorUnknownCommand : validated [0x82, 0x00, 0x00, 0xDD] = some (.failed, 0xC0, 0x82, true) := by
  decide +kernel
theorem test_errorBusy : validated [0x83, 0x00, 0x00, 0xB6] = some (.failed, 0xC0, 0x83, true) := by decide +kernel
theorem test_errorOutOfRange : validated [0x84, 0x00, 0x00, 0xA0] = some (.failed, 0xC0, 0x84, true) := by
  decide +kernel
theorem test_errorDomain : validated [0x85, 0x00, 0x00, 0xCB] = some (.failed, 0xC0, 0x85, true) := by decide +kernel
theorem test_errorBadLength : validated [0x86, 0x00, 0x00, 0x76] = some (.failed, 0xC0, 0x86, true) := by
  decide +kernel
theorem test_undecodable_response : validated [0xFF, 0xFF, 0xFF, 0xFF] = some (.failed, 0x80, 0x02, false)
    ∧ validated [0x03, 0x32, 0x00, 0x6E] = some (.failed, 0x80, 0x03, false) := by decide +kernel

/-! ### The bus steps (L2.5.1) -/

theorem test_send : (nextOf (step (asked [.host] (hostAt .sending)))).map (fun t => (t.h.state, t.p.state, t.p.rxb))
    = some (.waiting, .dispatching, [0x03, 0x32, 0x00, 0x6E]) := by decide +kernel
theorem test_send_wrong_address : (nextOf (step (asked [.host] { hostAt .sending with
      p := { PeriphRegs.reset tp with ownAddr := 0x45 } }))).map (fun t => (t.h.state, t.h.cause, t.h.causeCode, t.p.rxn))
    = some (.failed, 0x40, 0x03, 0) := by decide +kernel
theorem test_read_short : (nextOf (step (asked [.host] (drawing { someDraw with error := some .shortRead }
      (hostAt .reading))))).map (fun t => (t.h.state, t.h.cause, t.h.causeCode, t.h.rxn))
    = some (.failed, 0x60, 0x02, 0) := by decide +kernel

/-- R57, R140, R174: under `DELAY_SUFFICIENT` the read of a discarded frame follows once `P` is back in IDLE. -/
theorem test_read_after_discarded : (nextOf (step (asked [.host] (committed [0x80, 0x32, 0x00, 0xD8]
      (under { tp with delaySufficient := true } (hostAt .reading)))))).map (fun t => (t.h.state, t.h.rxf))
    = some (.validating, [0x80, 0x32, 0x00, 0xD8]) := by decide +kernel

/-! ### Placing a word, and the assembler -/

theorem test_withFetchWord : (nextOf (step (State.reset.withFetchWord 16 0x2003))).map (fun t => t.h.crc) = some 0x09
    ∧ (nextOf (step (State.reset.withFetchWord 32 0x84FF00F0))).isSome = true := by decide +kernel
theorem test_assemble : assembleLine tp "REQ.SET D0, 0x32 ; speed".toList = some [0x4132]
    ∧ assembleLine tp "CFG.WAIT 500".toList = some [0x71F4, 0x7201]
    ∧ assembleLine tp "REQ SET_SPEED, 0x64, 0x01".toList = some [0x4003, 0x4164, 0x4201]
    ∧ assembleLine tp "RD RESP_DATA0".toList = some [0xA040] := by decide +kernel

/-! ### Witnesses: for every statement with hypotheses, a state and operands that meet them together -/

theorem inSpec_at (st : HostState) : (hostAt st).inSpec := ⟨by cases st <;> rfl, by cases st <;> rfl⟩

theorem shapes_at (st : HostState) : BufferShapes (hostAt st) := by constructor <;> simp [hostAt, State.resetWith,
  HostRegs.reset, PeriphRegs.reset, tp, legalParams, Params.pL, zeros]

/-- For DecodeOfEncodeIsTheInstruction; every boundary operand. -/
theorem witness_wellFormed : (Instr.setSpeed [0x64, 0x01]).wellFormed tp = true
    ∧ (Instr.reqSet 2 0xFF).wellFormed tp = true ∧ (Instr.rd 0x23).wellFormed tp = true := by decide +kernel

/-- For EncodeOfDecodeIsTheCode. -/
theorem witness_decodes : decode tp (.word 0x4200) = .ok (.reqSet 2 0x00)
    ∧ decode tp (.request [0x03, 0x64, 0x01, 0x1B]) = .ok (.setSpeed [0x64, 0x01])
    ∧ decode tp (.response [0x86, 0x00, 0x00, 0x76]) = .ok (.errorBadLength [0x00, 0x00]) := by decide +kernel

/-- For FrameRoundTrip and FrameInWrongDirectionIsUnknown. -/
theorem witness_frame_data : ([0x32, 0x00] : List Byte).length = tp.pD ∧ (0x04 : Byte) ∈ ([0x01, 0x02, 0x03, 0x04] : List Byte)
    ∧ (0x86 : Byte) ∈ ([0x80, 0x81, 0x82, 0x83, 0x84, 0x85, 0x86] : List Byte) := by decide +kernel

/-- For FrameChecksComeInOrder: a short frame, a wrong checksum, a reserved code, and a good frame. -/
theorem witness_frame_checks : ([0x03, 0x32, 0x00] : List Byte).length ≠ tp.pD + 2
    ∧ (0x6F : Byte) ≠ checksum tp [0x03, 0x32, 0x00]
    ∧ ((0xC0 : Byte) = checksum tp [0x05, 0x00, 0x00] ∧ (0x05 : Byte) ∉ ([0x01, 0x02, 0x03, 0x04] : List Byte))
    ∧ ((0x6E : Byte) = checksum tp [0x03, 0x32, 0x00] ∧ (0x03 : Byte) ∈ ([0x01, 0x02, 0x03, 0x04] : List Byte)) := by
  decide +kernel

/-- For IllegalWordIsRejected: both sides of each bound of R71. -/
theorem witness_illegal : (asked [.word 0x0000] (hostAt .waiting)).inSpec ∧ illegalNumber tp 0x0000
    ∧ illegalNumber tp 0xB000 ∧ illegalNumber tp 0x1001 ∧ illegalNumber tp 0x2100 ∧ illegalNumber tp 0x4300
    ∧ illegalNumber tp 0x7300 ∧ illegalNumber tp 0x7080 ∧ illegalNumber tp 0xA00E ∧ illegalNumber tp 0xA013
    ∧ ¬ illegalNumber tp 0x42FF ∧ ¬ illegalNumber tp 0x707F ∧ ¬ illegalNumber tp 0xA00D ∧ ¬ illegalNumber tp 0xA012 := by
  refine ⟨inSpec_at .waiting, ?_⟩
  simp [illegalNumber, tp, Params.pL]

/-- For FieldWriteReadsBack: a two-byte field at the end of a frame, at its largest value; the sum has 0x32 first. -/
theorem witness_field : 2 + 2 ≤ ([0x03, 0x32, 0x00, 0x6E] : List Byte).length ∧ 0xFFFF < 256 ^ 2 := by decide +kernel

/-- For CorruptedFramesFailTheChecksum: a good frame, the last bit, three flips, and a burst of 8 over two bytes. -/
theorem witness_corruption : defaultGenerator tp ∧ passesChecksum tp [0x03, 0x32, 0x00, 0x6E]
    ∧ oneBit tp.pL 31 = [0x00, 0x00, 0x00, 0x80]
    ∧ patternWeight [0x01, 0x00, 0x40, 0x80] % 2 = 1
    ∧ (([0x0F, 0xF0, 0x00, 0x00] : List Byte) ≠ zeros tp.pL ∧ burstAt [0x0F, 0xF0, 0x00, 0x00] 4) := by
  refine ⟨⟨rfl, rfl⟩, by unfold passesChecksum; decide +kernel, by decide +kernel, by decide +kernel,
    by decide +kernel, ?_⟩
  intro i j hj hb
  match i with
  | 0 => interval_cases j <;> simp at hb ⊢
  | 1 => interval_cases j <;> simp at hb ⊢
  | 2 => simp at hb
  | 3 => simp at hb
  | n + 4 => simp at hb

/-- For ValidFrameHasZeroResidue and TableChecksumIsBitSerial: unreflected, and reflected with the generator's bits
turned round. -/
theorem witness_unreflected : tp.crcReflect = false ∧ tp.crcXorout = 0x00
    ∧ ({ tp with crcReflect := true } : Params).crcReflect = true
    ∧ (List.range 8).all (fun j => (0xE0 : Byte).getLsbD j == tp.crcPoly.getLsbD (7 - j)) = true := by decide +kernel

/-- For ControlWordsComputeTheChecksum, also with no byte at all. -/
theorem witness_crc_words : (asked ((expandCrcOf [0x03, 0x32]).map .word ++ [.periph]) (hostAt .failed)).inSpec
    ∧ (hostAt .failed).h.state.atRest
    ∧ expandCrcOf [0x03, 0x32] = [0x1000, 0x2003, 0x2032, 0x3000] ∧ expandCrcOf [] = [0x1000, 0x3000] :=
  ⟨inSpec_at .failed, .inr (.inr rfl), by decide +kernel, by decide +kernel⟩

/-- For ChecksumOperationsResult, EncodeOperationResult, TransactionStartResult and AcknowledgeResult: each state of rest. -/
theorem witness_at_rest : (hostAt .idle).h.state.atRest ∧ (hostAt .done).h.state.atRest ∧ (hostAt .failed).h.state.atRest :=
  ⟨.inl rfl, .inr (.inl rfl), .inr (.inr rfl)⟩

/-- For RequestSetResult: the first and the last data byte. -/
theorem witness_reqSet : (hostAt .idle).h.state.atRest ∧ (hostAt .idle).h.reqData.length = tp.pD
    ∧ (1 ≤ (1#4).toNat ∧ (1#4).toNat ≤ tp.pD) ∧ (1 ≤ (2#4).toNat ∧ (2#4).toNat ≤ tp.pD) :=
  ⟨.inl rfl, by decide +kernel, by decide +kernel, by decide +kernel⟩

/-- For DecodeOperationResult: a response, and each error. -/
theorem witness_dec : (hasRead [] (hostAt .idle)).cfg = tp
    ∧ decodeFrame tp .resp (([0x80, 0x32, 0x00, 0xD8] : List Byte).take 4) = .ok (0x80, [0x32, 0x00])
    ∧ decodeFrame tp .resp (([0x80, 0x32, 0x00, 0xD8] : List Byte).take 0) = .error .lengthMismatch
    ∧ decodeFrame tp .resp (([0x80, 0x32, 0x00, 0xD9] : List Byte).take 4) = .error .badChecksum
    ∧ decodeFrame tp .resp (([0x03, 0x32, 0x00, 0x6E] : List Byte).take 4) = .error .unknownOpcode := by decide +kernel

/-- For ConfigSetResult: the largest address. -/
theorem witness_cfgSet : (hostAt .done).h.state.atRest ∧ (0x7F : Byte).toNat < 128 := ⟨.inr (.inl rfl), by decide +kernel⟩

/-- For ReadRegisterResult, at the largest geometry. -/
theorem witness_rd : (State.resetWith { tp with pD := 14 }).cfg.pD ≤ 14 ∧ 13 < (State.resetWith { tp with pD := 14 }).cfg.pD := by
  decide +kernel

/-- For BusyPortRejectsWords. -/
theorem witness_busy_port : isControlWord .txn = true ∧ (∀ n, Instr.txn ≠ .rd n) ∧ Instr.txn.wellFormed tp = true
    ∧ (hostAt .sending).h.state.busy ∧ (hostAt .validating).h.state.busy :=
  ⟨rfl, by simp, rfl, .inl rfl, .inr (.inr (.inr rfl))⟩

/-- For IllegalOperandsRejected. -/
theorem witness_illegal_operands : isControlWord (.rd 0x0E) = true ∧ (Instr.rd 0x0E).wellFormed (hostAt .reading).cfg = false
    ∧ (Instr.reqSet 3 0x00).wellFormed (hostAt .reading).cfg = false := by decide +kernel

/-- For RequestExpansionLoadsPayload: a full payload and an empty one. -/
theorem witness_request_expansion : (asked ((expandReq tp 0x03 [0x64, 0x01]).map .word) (hostAt .idle)).inSpec
    ∧ (hostAt .idle).h.state.atRest ∧ (hostAt .idle).h.reqData.length = tp.pD
    ∧ ([0x64, 0x01] : List Byte).length ≤ tp.pD ∧ expandReq tp 0x03 [0x64, 0x01] = [0x4003, 0x4164, 0x4201]
    ∧ expandReq tp 0x01 [] = [0x4001, 0x4100, 0x4200] :=
  ⟨inSpec_at .idle, .inl rfl, by decide +kernel, by decide +kernel, by decide +kernel, by decide +kernel⟩

/-- For CommandResultsUnderStub: the largest speed and direction. -/
theorem witness_stub : (received [0x03, 0x64, 0x01, 0x1B] (hostAt .waiting)).cfg.actuator = .stub
    ∧ (received [0x03, 0x64, 0x01, 0x1B] (hostAt .waiting)).p.state = .dispatching
    ∧ ([0x64, 0x01] : List Byte).length = tp.pD ∧ (0x64 : Byte).toNat ≤ tp.speedMax ∧ (0x01 : Byte).toNat ≤ 1 := by
  decide +kernel

/-- For ActuatorOutcomeIsTranslated, ContractKeepsStatusInSubset: an oracle, with a drawn answer and without one. -/
theorem witness_oracle :
    let s := under { tp with actuator := .oracle } (received [0x02, 0x00, 0x00, 0xD6] (hostAt .waiting))
    s.cfg.actuator = .oracle ∧ s.p.state = .dispatching ∧ ([0x64, 0x01] : List Byte).length = s.cfg.pD
    ∧ (0x64 : Byte).toNat ≤ s.cfg.speedMax ∧ (0x01 : Byte).toNat ≤ 1
    ∧ s.draws = [] ∧ (drawing someDraw s).draws = [someDraw] := by decide +kernel

theorem witness_contract : inContract .stop someDraw.answer := by
  simp [inContract, someDraw, answerStatus, statusSubset]

/-- For OutOfRangeIsRejectedNotClamped: one past each bound. -/
theorem witness_out_of_range : (received [0x03, 0x65, 0x00, 0x09] (hostAt .waiting)).p.state = .dispatching
    ∧ ([0x65, 0x00] : List Byte).length = tp.pD ∧ tp.speedMax < (0x65 : Byte).toNat ∧ 1 < (0x02 : Byte).toNat := by
  decide +kernel

/-- For UndecodableRequestIsAnswered: one frame for each clause. -/
theorem witness_undecodable_request :
    let s (bytes : List Byte) := asked [.periph] (received bytes (hostAt .waiting))
    (s [0x03, 0x32, 0x00, 0x6E, 0x00]).inSpec ∧ (s [0x03]).inSpec
    ∧ (s [0x03, 0x32, 0x00, 0x6E, 0x00]).p.rxn = tp.pL + 1
    ∧ ((s [0x03, 0x32, 0x00]).p.rxn ≤ tp.pL
      ∧ decodeFrame tp .req ((s [0x03, 0x32, 0x00]).p.rxb.take 3) = .error .lengthMismatch)
    ∧ decodeFrame tp .req ((s [0x03, 0x32, 0x01, 0x6E]).p.rxb.take 4) = .error .badChecksum
    ∧ decodeFrame tp .req ((s [0x05, 0x00, 0x00, 0xC0]).p.rxb.take 4) = .error .unknownOpcode :=
  ⟨⟨by decide +kernel, by decide +kernel⟩, ⟨by decide +kernel, by decide +kernel⟩, by decide +kernel, by decide +kernel,
    by decide +kernel, by decide +kernel⟩

/-- For OkResponseGivesDone, FailureStatusGivesFailed and UndecodableResponseGivesFailed. -/
theorem witness_validating : (asked [.host] (hasRead [0x80, 0x32, 0x00, 0xD9] (hostAt .reading))).inSpec
    ∧ (hasRead [0x80, 0x32, 0x00, 0xD9] (hostAt .reading)).h.state = .validating
    ∧ ([0x32, 0x00] : List Byte).length = tp.pD
    ∧ decodeFrame tp .resp (([0x80, 0x32, 0x00, 0xD9] : List Byte).take 4) = .error .badChecksum :=
  ⟨⟨by decide +kernel, by decide +kernel⟩, rfl, by decide +kernel, by decide +kernel⟩

/-- For FramesRunOnlyWhenEnabled and IllFormedFrameIsALengthError. -/
theorem witness_frames_elsewhere : (hostAt .idle).p.state ≠ .dispatching ∧ (hostAt .idle).h.state ≠ .validating
    ∧ ([0x00] : List Byte).length ≠ tp.pD ∧ (received [0x02] (hostAt .validating)).p.state = .dispatching
    ∧ (received [0x02] (hostAt .validating)).h.state = .validating := by decide +kernel

/-- For SendStepWithoutNoise: a wrong address, an idle `P`, a busy `P`, and the last three with partial delivery. -/
theorem witness_send :
    let q := { tp with partialDelivery := true }
    (asked [.host] (hostAt .sending)).inSpec ∧ (asked [.host] (under q (hostAt .sending))).inSpec
    ∧ (hostAt .sending).h.state = .sending ∧ (hostAt .sending).cfg.busNoise = false
    ∧ ((0x45 : BitVec 7) ≠ (hostAt .sending).p.ownAddr ∧ (hostAt .sending).h.periphAddr = (hostAt .sending).p.ownAddr)
    ∧ ((hostAt .sending).p.state = .idle ∧ (hostAt .sending).h.txf.length = tp.pL ∧ (hostAt .sending).p.rxb.length = tp.pL)
    ∧ (received [0x01, 0x00, 0x00, 0x6B] (hostAt .sending)).p.state = .dispatching
    ∧ q.partialDelivery = true ∧ (drawing someDraw (under q (hostAt .sending))).draws = [someDraw] :=
  ⟨inSpec_at .sending, ⟨by decide +kernel, by decide +kernel⟩, rfl, rfl, by decide +kernel, by decide +kernel, rfl, rfl, rfl⟩

/-- For NoisyWriteAdmitsEveryOutcome, whole and in chunks. -/
theorem witness_noisy_write :
    let s (partly : Bool) :=
      asked [.host] (drawing someDraw (under { tp with busNoise := true, partialDelivery := partly } (hostAt .sending)))
    ∀ partly, (s partly).inSpec ∧ (s partly).h.state = .sending ∧ (s partly).cfg.busNoise = true
      ∧ (s partly).draws = [someDraw] := by
  intro s partly
  cases partly <;> exact ⟨⟨by decide +kernel, by decide +kernel⟩, rfl, rfl, rfl⟩

/-- For WaitStepOrdersNothing. -/
theorem witness_wait : (asked [.host] (hostAt .waiting)).inSpec ∧ (hostAt .waiting).h.state = .waiting :=
  ⟨inSpec_at .waiting, rfl⟩

/-- For ReadStepWithoutNoise: a settled buffer, without `DELAY_SUFFICIENT` and with it, and a wrong address. -/
theorem witness_read :
    let s (delay : Bool) := asked [.host] { committed [0x80, 0x32, 0x00, 0xD8]
      (under { tp with delaySufficient := delay } (hostAt .reading)) with link := .answered }
    ∀ delay, (s delay).inSpec ∧ (s delay).h.state = .reading ∧ (s delay).cfg.busNoise = false ∧ (s delay).readReady
      ∧ ((s delay).h.periphAddr = (s delay).p.ownAddr ∧ (s delay).p.txbValid = true ∧ (s delay).p.state = .idle)
      ∧ (0x45 : BitVec 7) ≠ (s delay).p.ownAddr := by
  intro s delay
  cases delay
  · exact ⟨⟨by decide +kernel, by decide +kernel⟩, rfl, rfl, .inl rfl, by decide +kernel, by decide +kernel⟩
  · exact ⟨⟨by decide +kernel, by decide +kernel⟩, rfl, rfl,
      .inr ⟨⟨rfl, by decide +kernel⟩, by decide +kernel, .inl rfl⟩, by decide +kernel, by decide +kernel⟩

/-- For DrawnReadAdmitsExactlyTheStatedOutcomes: noise, and an unsettled buffer without it; under `DELAY_SUFFICIENT` a
`P` that has lost the frame and has no response. -/
theorem witness_drawn_read : (asked [.host] (hostAt .reading)).inSpec ∧ (hostAt .reading).readReady
    ∧ (under { tp with busNoise := true } (hostAt .reading)).cfg.busNoise = true
    ∧ ((hostAt .reading).h.periphAddr = (hostAt .reading).p.ownAddr ∧ (hostAt .reading).p.txbValid = false)
    ∧ (under { tp with delaySufficient := true } (hostAt .reading)).readReady :=
  ⟨inSpec_at .reading, .inl rfl, rfl, by decide +kernel,
    .inr ⟨⟨rfl, by decide +kernel⟩, by decide +kernel, .inl rfl⟩⟩

/-- For SufficientDelayHoldsBackTheRead: a response owed, and `P` dispatching. -/
theorem witness_delay :
    let s := asked [.host] { received [0x01, 0x00, 0x00, 0x6B]
      (under { tp with delaySufficient := true } (hostAt .reading)) with link := .owed }
    s.inSpec ∧ s.h.state = .reading ∧ s.delayTaken ∧ s.link = .owed ∧ s.p.state = .dispatching :=
  ⟨⟨by decide +kernel, by decide +kernel⟩, rfl, ⟨rfl, by decide +kernel⟩, rfl, rfl⟩

/-- For ReceivedBytesAreStoredInOrder and SplitWriteIsReceivedWhole: an idle `P`, and one that holds two bytes, with one
byte more, with the two that complete the frame, and with one too many. -/
theorem witness_receive :
    let q := { tp with partialDelivery := true }
    let p := { PeriphRegs.reset tp with state := .receiving, rxb := [0x03, 0x32, 0x00, 0x00], rxn := 2 }
    q.partialDelivery = true ∧ (PeriphRegs.reset tp).state = .idle ∧ (PeriphRegs.reset tp).rxb.length = tp.pL
    ∧ (PeriphRegs.reset tp).rxn ≤ tp.pL + 1 ∧ 0 < q.pL ∧ 0 + ([0x03, 0x32, 0x00, 0x6E] : List Byte).length = q.pL
    ∧ p.rxb.length = q.pL ∧ p.rxn < q.pL ∧ p.rxn + ([0x00] : List Byte).length < q.pL
    ∧ p.rxn + ([0x00, 0x6E] : List Byte).length = q.pL
    ∧ ((receive q p [0x00, 0x6E, 0xFF] true).state, (receive q p [0x00, 0x6E, 0xFF] true).rxn) = (.dispatching, 5) := by
  decide +kernel

/-- For BusyPeripheralIsUndisturbed: `H` sends to a busy `P`, as an input and with none left. -/
theorem witness_busy_peripheral :
    let s := received [0x01, 0x00, 0x00, 0x6B] (hostAt .sending)
    s.p.state = .dispatching ∧ (nextOf (step (asked [.host] s))).isSome = true
    ∧ (nextOf (step { drawing someDraw s with inputs := [] })).isSome = true := by decide +kernel

/-- For RespondStepCommits. -/
theorem witness_respond :
    let s := asked [.periph] { hostAt .waiting with p := { PeriphRegs.reset tp with state := .responding } }
    s.inSpec ∧ s.p.state = .responding := ⟨⟨by decide +kernel, by decide +kernel⟩, rfl⟩

/-- For DispatchAlwaysResponds: an overlong frame. -/
theorem witness_dispatch :
    let s := asked [.periph, .periph] (received [0x03, 0x32, 0x00, 0x6E, 0x00] (hostAt .waiting))
    s.inSpec ∧ s.p.state = .dispatching := ⟨⟨by decide +kernel, by decide +kernel⟩, rfl⟩

/-- For StepRunsTheDecodedInstruction: a word, a request and a response. -/
theorem witness_step_runs : (asked [.word 0x2032] (hostAt .idle)).inSpec ∧ decodeWord tp 0x2032 = .ok (.crcUpd 0x32)
    ∧ (let s := received [0x03, 0x64, 0x01, 0x1B] (hostAt .idle)
      s.inSpec ∧ s.p.state = .dispatching ∧ s.p.rxn ≤ tp.pL
      ∧ decodeRequest tp (s.p.rxb.take s.p.rxn) = .ok (.setSpeed [0x64, 0x01]) ∧ s.h.state.atRest)
    ∧ (let s := hasRead [0x80, 0x32, 0x00, 0xD8] (hostAt .reading)
      s.inSpec ∧ s.h.state = .validating ∧ decodeResponse tp (s.h.rxf.take s.h.rxn.toNat) = .ok (.ok [0x32, 0x00])
      ∧ s.p.state = .idle) :=
  ⟨inSpec_at .idle, by decide +kernel,
    ⟨⟨by decide +kernel, by decide +kernel⟩, rfl, by decide +kernel, by decide +kernel, .inl rfl⟩,
    ⟨⟨by decide +kernel, by decide +kernel⟩, rfl, by decide +kernel, rfl⟩⟩

/-- For HostStateFollowsItsTable, PeriphStateFollowsItsTable, InstancesShareNothing and the three invariants: a step
that moves both instances, as an input and with none left. -/
theorem witness_step : (nextOf (step (asked [.host] (hostAt .sending)))).map (fun t => (t.h.state, t.p.state))
      = some (.waiting, .dispatching)
    ∧ (nextOf (step (hostAt .sending))).map (fun t => (t.h.state, t.p.state)) = some (.waiting, .dispatching) := by
  decide +kernel

theorem witness_invariants : BufferShapes (hostAt .sending) ∧ HostCoherent (hostAt .sending) ∧ PeriphCoherent (hostAt .sending) := by
  refine ⟨shapes_at .sending, ?_, ?_⟩
  · constructor <;> simp [hostAt, State.resetWith, HostRegs.reset, PeriphRegs.reset, legalCause, HostState.busy]
    decide +kernel
  · constructor <;> simp [hostAt, State.resetWith, HostRegs.reset, PeriphRegs.reset]

/-- For ResetSatisfiesInvariants: the smallest and the largest geometry. -/
theorem witness_legal : legalParams tp = true ∧ legalParams { tp with pD := 14, speedMax := 255 } = true := by decide +kernel

/-- For ResetInputsResult. -/
theorem witness_reset_inputs : (asked [.resetHost] (hostAt .reading)).inSpec ∧ (asked [.powerOn] (hostAt .reading)).inSpec
    ∧ (asked [.resetPeriph] (hostAt .reading)).inSpec := ⟨inSpec_at .reading, inSpec_at .reading, inSpec_at .reading⟩

/-- For TransactionEndsInEightSteps: the longest case, a transaction to send while `P` still dispatches, without
`DELAY_SUFFICIENT` and with it. -/
theorem witness_eight_steps :
    let s (delay : Bool) := received [0x01, 0x00, 0x00, 0x6B] (under { tp with delaySufficient := delay } (hostAt .sending))
    ((s false).inSpec ∧ (s false).inputs = [] ∧ (s false).h.state.busy ∧ (s false).cfg.delaySufficient = false)
    ∧ (s true).inSpec ∧ (s true).inputs = [] ∧ (s true).h.state.busy ∧ (s true).delayTaken ∧ PeriphCoherent (s true) := by
  refine ⟨⟨⟨by decide +kernel, by decide +kernel⟩, rfl, .inl rfl, rfl⟩, ⟨by decide +kernel, by decide +kernel⟩, rfl, .inl rfl,
    ⟨rfl, by decide +kernel⟩, ?_⟩
  constructor <;> simp [received, under, hostAt, State.resetWith, PeriphRegs.reset, tp, zeros]

/-- For FairInputsEndTheTransaction: eight stretches, with a word between the steps and one more after them. -/
theorem witness_fair :
    let rounds : List (List Event) := List.replicate 8 [.word 0x8000, .periph, .word 0xA000, .host]
    let s := asked (rounds.flatten ++ [.word 0x9000]) (hostAt .sending)
    s.inSpec ∧ s.h.state.busy ∧ s.cfg.delaySufficient = false ∧ rounds.length = 8 ∧ (∀ r ∈ rounds, fairRound r)
    ∧ s.inputs = rounds.flatten ++ [.word 0x9000] := by
  refine ⟨inSpec_at .sending, .inl rfl, rfl, rfl, ?_, rfl⟩
  intro r hr
  rw [List.eq_of_mem_replicate hr]
  simp [fairRound]

/-- For FreshResponseUnderSufficientDelay: at the bounds of speed and direction, and with more data bytes than two. -/
theorem witness_fresh :
    let s := under { tp with delaySufficient := true } (hostAt .sending)
    BufferShapes s ∧ s.inSpec ∧ s.inputs = [] ∧ s.cfg.busNoise = false ∧ s.cfg.partialDelivery = false
    ∧ s.delayTaken ∧ s.cfg.actuator = .stub ∧ s.h.state = .sending
    ∧ s.h.periphAddr = s.p.ownAddr ∧ s.p.state = .idle ∧ ([0x32, 0x00] : List Byte).length = s.cfg.pD
    ∧ (0x32 : Byte).toNat ≤ s.cfg.speedMax ∧ (0x00 : Byte).toNat ≤ 1
    ∧ s.h.txf = encodeFrame s.cfg 0x03 [0x32, 0x00] := by
  refine ⟨?_, ⟨by decide +kernel, by decide +kernel⟩, rfl, rfl, rfl, ⟨rfl, by decide +kernel⟩, by decide +kernel⟩
  constructor <;> simp [under, hostAt, State.resetWith, HostRegs.reset, PeriphRegs.reset, tp, legalParams, Params.pL, zeros]

/-- For StaleResponseCanPassForFresh: program L3.6. -/
theorem witness_stale :
    let s := asked [.host, .host] (received [0x03, 0x64, 0x01, 0x1B] (committed [0x80, 0x32, 0x00, 0xD8] (hostAt .reading)))
    BufferShapes s ∧ s.inSpec ∧ s.h.state = .reading ∧ s.cfg.delaySufficient = false ∧ s.h.periphAddr = s.p.ownAddr
    ∧ s.p.state = .dispatching ∧ decodeFrame s.cfg .resp s.p.txb = .ok (0x80, [0x32, 0x00]) := by
  refine ⟨?_, ⟨by decide +kernel, by decide +kernel⟩, rfl, rfl, by decide +kernel, rfl, by decide +kernel⟩
  constructor <;> simp [asked, received, committed, hostAt, State.resetWith, HostRegs.reset, PeriphRegs.reset, tp,
    legalParams, Params.pL, zeros, fitTo]

/-- For RefusalsAreExactlyTheSpecs: each refusal, at its bound. -/
theorem witness_refusals : step (under { tp with pD := 15 } (hostAt .idle)) = .refused .illegalConfiguration
    ∧ step { hostAt .idle with p := { PeriphRegs.reset tp with rxn := 6 } } = .refused .unreachableState
    ∧ step { hostAt .idle with h := { (hostAt .idle).h with cause := 0x41 } } = .refused .unreachableState :=
  ⟨rfl, rfl, rfl⟩

/-- For EndedRunStaysEnded. -/
theorem witness_ended : (hostAt .done).inSpec ∧ (hostAt .done).ended :=
  ⟨inSpec_at .done, rfl, .inr (.inl rfl), rfl⟩

end Sys2Proof.Tests
end

section
/-! SUPPORT. Proofs of the scope statements: every step inside the spec answers a next state, the refusals of R158 are
those outside it, and the step runs `exec` of what it decodes. -/

namespace Sys2Proof.Proofs.Scope

open Sys2Proof.Machine Sys2Proof.Laws

/-! No instruction is refused (R13, R148). -/

theorem portOp_next (legal : Bool) (effect : State → State) (s : State) :
    ∃ t, portOp legal effect s = .next t := by
  unfold portOp
  split
  · exact ⟨_, rfl⟩
  · split <;> exact ⟨_, rfl⟩

theorem portRead_next (legal : Bool) (value : Byte) (s : State) :
    ∃ t, portRead legal value s = .next t := by
  cases legal <;> exact ⟨_, rfl⟩

theorem exec_next (i : Instr) (s : State) : ∃ t, exec i s = .next t := by
  match i with
  | .crcInit => rw [exec, execCrcInit]; exact portOp_next _ _ s
  | .crcUpd _ => rw [exec, execCrcUpd]; exact portOp_next _ _ s
  | .crcFin => rw [exec, execCrcFin]; exact portOp_next _ _ s
  | .enc | .dec | .txn | .ack => exact portOp_next true _ s
  | .reqSet _ _ | .cfgSet _ _ => exact portOp_next _ _ s
  | .rd _ => exact portRead_next _ _ s
  | .ping _ | .stop _ | .setSpeed _ | .getStatus _ => exact ⟨_, rfl⟩
  | .ok _ | .errorBadCrc _ | .errorUnknownCommand _ | .errorBusy _ | .errorOutOfRange _ | .errorDomain _
  | .errorBadLength _ => exact ⟨_, rfl⟩

/-! Nothing that an input or an enabled step brings is refused: `H` asks for `P_L` bytes, so R158 (b) never arises
(R49). -/

theorem readStep_eq (s : State) : readStep s
    = .effect (afterRead (busRead s.h.periphAddr s.cfg.pL s).1 (busRead s.h.periphAddr s.cfg.pL s).2) := by
  simp [readStep, readStepOf]

theorem fetchWord_next (cw : ControlWord) (s : State) : ∃ t, runFetched (fetchWord cw s) = .next t := by
  unfold fetchWord
  split
  · exact exec_next _ s
  · exact ⟨_, rfl⟩

theorem validateStep_next (s : State) : ∃ t, runFetched (validateStep s) = .next t := by
  unfold validateStep
  split
  · exact exec_next _ s
  · exact ⟨_, rfl⟩

theorem dispatchStep_next (s : State) : ∃ t, runFetched (dispatchStep s) = .next t := by
  unfold dispatchStep
  split
  · exact exec_next _ s
  · exact ⟨_, rfl⟩

theorem fetchHost_next (s : State) : ∃ t, runFetched (fetchHost s) = .next t := by
  unfold fetchHost
  cases s.h.state with
  | reading =>
    rw [readStep_eq]
    cases readEnabled s <;> exact ⟨_, rfl⟩
  | validating => exact validateStep_next s
  | idle | sending | waiting | done | failed => exact ⟨_, rfl⟩

theorem fetchPeriph_next (s : State) : ∃ t, runFetched (fetchPeriph s) = .next t := by
  unfold fetchPeriph
  cases s.p.state with
  | dispatching => exact dispatchStep_next s
  | idle | receiving | responding => exact ⟨_, rfl⟩

theorem fetchEvent_next (e : Event) (s : State) : ∃ t, runFetched (fetchEvent e s) = .next t := by
  cases e with
  | word cw => exact fetchWord_next cw s
  | host => exact fetchHost_next s
  | periph => exact fetchPeriph_next s
  | resetHost | resetPeriph | powerOn => exact ⟨_, rfl⟩

theorem fetchFree_next (s : State) : ∃ t, runFetched (fetchFree s) = .next t := by
  unfold fetchFree
  split
  · split
    · split
      · exact fetchHost_next _
      · exact fetchPeriph_next _
    · exact fetchHost_next s
  · split
    · exact fetchPeriph_next s
    · exact ⟨_, rfl⟩

/-- Inside the spec the step always answers a next state. -/
theorem step_next_of_inSpec (s : State) (h : s.inSpec) : ∃ t, step s = .next t := by
  cases hi : s.inputs with
  | nil => rw [step_free s h hi]; exact fetchFree_next s
  | cons e rest => rw [step_input s e rest h hi]; exact fetchEvent_next e _

/-! The two refusals (R158) and their conditions in numbers (R9, R23, R32). -/

theorem step_illegalConfiguration (s : State) (h : legalParams s.cfg = false) :
    step s = .refused .illegalConfiguration := by
  rw [step_eq]; simp [fetch, h, runFetched]

theorem step_unreachableState (s : State) (hl : legalParams s.cfg = true) (hu : unreachableState s = true) :
    step s = .refused .unreachableState := by
  rw [step_eq]; simp [fetch, hl, hu, runFetched]

theorem legalParams_iff (prm : Params) :
    legalParams prm = true ↔ 2 ≤ prm.pD ∧ prm.pD ≤ 14 ∧ prm.speedMax ≤ 255 := by
  simp [legalParams, and_assoc]

theorem causeReserved_ne_zero_iff (cause : Byte) : causeReserved cause ≠ 0 ↔ cause.toNat % 32 ≠ 0 := by
  have hmask : (causeReserved cause).toNat = cause.toNat % 32 := by
    rw [causeReserved, BitVec.toNat_and]
    exact Nat.and_two_pow_sub_one_eq_mod cause.toNat 5
  rw [← hmask, ne_eq, ← BitVec.toNat_inj]
  rfl

theorem unreachableState_iff (s : State) :
    unreachableState s = true ↔ s.h.cause.toNat % 32 ≠ 0 ∨ s.cfg.pD + 3 < s.p.rxn := by
  rw [← causeReserved_ne_zero_iff, unreachableState, Bool.or_eq_true, decide_eq_true_iff, decide_eq_true_iff,
    Params.pL]

/-- The refusals of a step, by the model's own two checks. -/
theorem step_refused_iff (s : State) (r : Refusal) : step s = .refused r ↔
    (¬ legalParams s.cfg = true ∧ r = .illegalConfiguration)
    ∨ (legalParams s.cfg = true ∧ unreachableState s = true ∧ r = .unreachableState) := by
  cases hl : legalParams s.cfg with
  | false => rw [step_illegalConfiguration s hl]; simpa using eq_comm
  | true =>
    cases hu : unreachableState s with
    | true => rw [step_unreachableState s hl hu]; simpa using eq_comm
    | false =>
      obtain ⟨t, ht⟩ := step_next_of_inSpec s ⟨hl, hu⟩
      rw [ht]; simp

/-- Settles O59: inside the spec every step answers a next state, and outside it the fetch refuses by name. -/
theorem refusalsAreExactlyTheSpecs : Obligations.RefusalsAreExactlyTheSpecs := by
  intro s r
  rw [step_refused_iff, legalParams_iff, unreachableState_iff]

/-! What the step runs in DISPATCHING and in VALIDATING (R120, R136). -/

theorem fetchPeriph_decoded (s : State) (i : Instr) (hs : s.p.state = .dispatching) (hn : s.p.rxn ≤ s.cfg.pL)
    (hd : decodeRequest s.cfg (s.p.rxb.take s.p.rxn) = .ok i) : fetchPeriph s = .instr i s := by
  simp [fetchPeriph, hs, dispatchStep, decodeReceived, hn, hd]

theorem fetchHost_decoded (s : State) (i : Instr) (hs : s.h.state = .validating)
    (hd : decodeResponse s.cfg (s.h.rxf.take s.h.rxn.toNat) = .ok i) : fetchHost s = .instr i s := by
  simp [fetchHost, hs, validateStep, readBytes, hd]

/-! With no input left, whichever of `H` and `P` alone has an enabled step moves (R180). -/

theorem hostEnabled_of_atRest (s : State) (h : s.h.state.atRest) : hostEnabled s = false := by
  rcases h with h | h | h <;> simp [hostEnabled, h]

theorem periphEnabled_of_listening (s : State) (h : s.p.state = .idle ∨ s.p.state = .receiving) :
    periphEnabled s = false := by
  rcases h with h | h <;> simp [periphEnabled, h]

theorem fetchFree_periph (s : State) (hh : hostEnabled s = false) (hp : periphEnabled s = true) :
    fetchFree s = fetchPeriph s := by
  simp [fetchFree, hh, hp]

theorem fetchFree_host (s : State) (hh : hostEnabled s = true) (hp : periphEnabled s = false) :
    fetchFree s = fetchHost s := by
  simp [fetchFree, hh, hp]

/-- The DISPATCH step runs the request it decodes. -/
theorem step_dispatch (s : State) (i : Instr) (h : s.inSpec) (hs : s.p.state = .dispatching)
    (hn : s.p.rxn ≤ s.cfg.pL) (hd : decodeRequest s.cfg (s.p.rxb.take s.p.rxn) = .ok i) :
    (∀ rest, s.inputs = .periph :: rest → step s = exec i { s with inputs := rest })
    ∧ (s.inputs = [] → s.h.state.atRest → step s = exec i s) := by
  constructor
  · intro rest hi
    rw [step_input s _ rest h hi, fetchEvent, fetchPeriph_decoded { s with inputs := rest } i hs hn hd, runFetched]
  · intro hi hr
    have hp : periphEnabled s = true := by simp [periphEnabled, hs]
    rw [step_free s h hi, fetchFree_periph s (hostEnabled_of_atRest s hr) hp, fetchPeriph_decoded s i hs hn hd,
      runFetched]

/-- The VALIDATE step runs the response it decodes. -/
theorem step_validate (s : State) (i : Instr) (h : s.inSpec) (hs : s.h.state = .validating)
    (hd : decodeResponse s.cfg (s.h.rxf.take s.h.rxn.toNat) = .ok i) :
    (∀ rest, s.inputs = .host :: rest → step s = exec i { s with inputs := rest })
    ∧ (s.inputs = [] → s.p.state = .idle ∨ s.p.state = .receiving → step s = exec i s) := by
  constructor
  · intro rest hi
    rw [step_input s _ rest h hi, fetchEvent, fetchHost_decoded { s with inputs := rest } i hs hd, runFetched]
  · intro hi hp
    have hh : hostEnabled s = true := by simp [hostEnabled, hs]
    rw [step_free s h hi, fetchFree_host s hh (periphEnabled_of_listening s hp), fetchHost_decoded s i hs hd,
      runFetched]

/-- Settles O45: the port, the DISPATCH step and the VALIDATE step each hand `exec` what they decode. -/
theorem stepRunsTheDecodedInstruction : Obligations.StepRunsTheDecodedInstruction := by
  intro s i rest h
  refine ⟨fun cw hi hd => step_word s cw rest i h hi hd, fun hs hn hd => ?_, fun hs hd => ?_⟩
  · obtain ⟨input, free⟩ := step_dispatch s i h hs hn hd
    exact ⟨input rest, free⟩
  · obtain ⟨input, free⟩ := step_validate s i h hs hd
    exact ⟨input rest, free⟩

end Sys2Proof.Proofs.Scope
end

section
/-! SUPPORT. Proofs of the statements on the registers, part 1: what one step does to the registers of `H` and to those
of `P`, said once for each of the two. -/

namespace Sys2Proof.Proofs.Instances

open Sys2Proof.Machine Sys2Proof.Laws

variable (s : State)

/-! SEND and READ on the registers of `H` and of `P` (R133, R135). -/

@[simp] theorem afterWrite_cfg (r : Option BusError) : (afterWrite r s).cfg = s.cfg := by cases r <;> rfl
@[simp] theorem afterWrite_p (r : Option BusError) : (afterWrite r s).p = s.p := by cases r <;> rfl
@[simp] theorem afterWrite_link (r : Option BusError) : (afterWrite r s).link = s.link := by cases r <;> rfl
@[simp] theorem afterRead_cfg (r : Except BusError (List Byte)) : (afterRead r s).cfg = s.cfg := by cases r <;> rfl
@[simp] theorem afterRead_p (r : Except BusError (List Byte)) : (afterRead r s).p = s.p := by cases r <;> rfl
@[simp] theorem afterRead_link (r : Except BusError (List Byte)) : (afterRead r s).link = s.link := by cases r <;> rfl

theorem sameButDraws_fields {s u : State} (h : SameButDraws s u) :
    u.cfg = s.cfg ∧ u.h = s.h ∧ u.p = s.p ∧ u.link = s.link := by
  unfold SameButDraws at h
  rw [h]; exact ⟨rfl, rfl, rfl, rfl⟩

theorem sameButQueues_fields {s u : State} (h : SameButQueues s u) :
    u.cfg = s.cfg ∧ u.h = s.h ∧ u.p = s.p ∧ u.link = s.link := by
  unfold SameButQueues at h
  rw [h]; exact ⟨rfl, rfl, rfl, rfl⟩

theorem busWrite_cfg_h (a : BitVec 7) (bs : List Byte) :
    (busWrite a bs s).2.cfg = s.cfg ∧ (busWrite a bs s).2.h = s.h := by
  obtain ⟨u, hu, hw⟩ := busWrite_cases s a bs
  obtain ⟨hcfg, hh, -, -⟩ := sameButDraws_fields hu
  rcases hw with hw | ⟨cs, b, hw⟩ <;> rw [hw] <;> exact ⟨hcfg, hh⟩

/-- A write leaves `P` and `link` alone, or gives `P` the receive events of some bytes. -/
theorem busWrite_p_link (a : BitVec 7) (bs : List Byte) :
    ((busWrite a bs s).2.p = s.p ∧ (busWrite a bs s).2.link = s.link)
    ∨ ∃ cs b, (busWrite a bs s).2.p = receiveAll s.cfg s.p (eventsOf s.cfg cs b)
        ∧ (busWrite a bs s).2.link = linkOf s.p (receiveAll s.cfg s.p (eventsOf s.cfg cs b)) := by
  obtain ⟨u, hu, hw⟩ := busWrite_cases s a bs
  obtain ⟨hcfg, -, hp, hlink⟩ := sameButDraws_fields hu
  rcases hw with hw | ⟨cs, b, hw⟩ <;> rw [hw]
  · exact .inl ⟨hp, hlink⟩
  · exact .inr ⟨cs, b, by rw [deliver_p, hcfg, hp], by rw [deliver_link, hcfg, hp]⟩

@[simp] theorem sendStep_cfg : (sendStep s).cfg = s.cfg := by
  rw [sendStep, afterWrite_cfg, (busWrite_cfg_h s _ _).1]

theorem sendStep_h : (sendStep s).h = { s.h with state := .waiting }
    ∨ ∃ k, (sendStep s).h = { s.h with cause := 0x40, causeCode := busErrorCode k, state := .failed } := by
  obtain ⟨-, hh⟩ := busWrite_cfg_h s s.h.periphAddr s.h.txf
  unfold sendStep
  cases (busWrite s.h.periphAddr s.h.txf s).1 with
  | none => left; rw [afterWrite, setHostState_h, hh]
  | some k => right; exact ⟨k, by rw [afterWrite, failedEntry_h, hh]; rfl⟩

/-- The READ step on `H`: a whole frame's worth of bytes, or the FAILED entry with the read buffer cleared. -/
theorem afterRead_busRead_h (a : BitVec 7) :
    (∃ bs, (bs = s.p.txb ∨ bs.length = s.cfg.pL)
      ∧ (afterRead (busRead a s.cfg.pL s).1 (busRead a s.cfg.pL s).2).h
        = { s.h with rxf := bs, rxn := BitVec.ofNat 8 s.cfg.pL, state := .validating })
    ∨ ∃ k, (afterRead (busRead a s.cfg.pL s).1 (busRead a s.cfg.pL s).2).h
        = { s.h with
            rxf := zeros s.cfg.pL, rxn := 0, cause := 0x60, causeCode := busErrorCode k, state := .failed } := by
  obtain ⟨hcfg, hh, -, -⟩ := sameButDraws_fields (busRead_same s a s.cfg.pL)
  cases hr : (busRead a s.cfg.pL s).1 with
  | ok bs => left; exact ⟨bs, busRead_ok s a _ bs hr, by simp only [afterRead, hh, hcfg]⟩
  | error k => right; exact ⟨k, by simp only [afterRead, failedEntry_h, clearReadBuffer_h, hh, hcfg]; rfl⟩

/-! The registers of `H` after a step. -/

/-- All that the registers of `H` can be after a step (R131, R157, R167). -/
inductive HostMove (s : State) : HostRegs → Prop
  | same : HostMove s s.h
  | reset : HostMove s (HostRegs.reset s.cfg)
  | word (u : State) (hr : s.h.state.atRest) (he : WordEffect s u) : HostMove s u.h
  | sent (hs : s.h.state = .sending) : HostMove s { s.h with state := .waiting }
  | writeFailed (hs : s.h.state = .sending) (k : BusError) :
      HostMove s { s.h with cause := 0x40, causeCode := busErrorCode k, state := .failed }
  | waited (hs : s.h.state = .waiting) : HostMove s { s.h with state := .reading }
  | gotBytes (hs : s.h.state = .reading) (bs : List Byte) (hb : bs = s.p.txb ∨ bs.length = s.cfg.pL) :
      HostMove s { s.h with rxf := bs, rxn := BitVec.ofNat 8 s.cfg.pL, state := .validating }
  | readFailed (hs : s.h.state = .reading) (k : BusError) :
      HostMove s { s.h with
        rxf := zeros s.cfg.pL, rxn := 0, cause := 0x60, causeCode := busErrorCode k, state := .failed }
  | gotOk (hs : s.h.state = .validating) (d : List Byte) (hl : d.length = s.cfg.pD)
      (hd : decodeFrame s.cfg .resp (readBytes s.h) = .ok (0x80, d)) :
      HostMove s { s.h with respValid := true, respStatus := 0x80, respData := d, state := .done }
  | gotFailure (hs : s.h.state = .validating) (st : Status) (hst : st ≠ .ok) (d : List Byte)
      (hl : d.length = s.cfg.pD) (hd : decodeFrame s.cfg .resp (readBytes s.h) = .ok (statusCode st, d)) :
      HostMove s { s.h with
        respValid := true, respStatus := statusCode st, respData := d
        cause := 0xC0, causeCode := statusCode st, state := .failed }
  | undecodable (hs : s.h.state = .validating) (e : DecodeError) :
      HostMove s { s.h with cause := 0x80, causeCode := decodeErrorCode e, state := .failed }

theorem dispatchCommand_cfg_h (c : Cmd) (d : List Byte) :
    (dispatchCommand c d s).cfg = s.cfg ∧ (dispatchCommand c d s).h = s.h := by
  rcases dispatchCommand_cases s c d with ⟨-, h⟩ | ⟨-, -, h⟩ | ⟨-, -, -, h⟩ | ⟨-, -, -, h⟩ <;> rw [h] <;> simp

theorem validateStatus_cfg_p_link (st : Status) (d : List Byte) :
    (validateStatus st d s).cfg = s.cfg ∧ (validateStatus st d s).p = s.p ∧ (validateStatus st d s).link = s.link := by
  rcases validateStatus_cases s st d with ⟨-, h⟩ | ⟨-, -, h⟩ | ⟨-, -, -, h⟩ | ⟨-, -, -, h⟩ <;> rw [h] <;> simp

theorem validateStatus_h (st : Status) (d : List Byte) (hs : s.h.state = .validating) (hl : d.length = s.cfg.pD)
    (hd : decodeFrame s.cfg .resp (readBytes s.h) = .ok (statusCode st, d)) :
    HostMove s (validateStatus st d s).h := by
  rcases validateStatus_cases s st d with ⟨h, -⟩ | ⟨-, h, -⟩ | ⟨-, -, rfl, h⟩ | ⟨-, -, hst, h⟩
  · exact absurd hs h
  · exact absurd hl h
  · rw [h]; exact .gotOk hs d hl hd
  · rw [h]; exact .gotFailure hs st hst d hl hd

theorem move_host {s t : State} (h : Move s t) : HostMove s t.h := by
  cases h with
  | stay | replies _ _ | dispatchError _ _ | respond _ => exact .same
  | word u hr he => exact .word u hr he
  | send hs =>
    rcases sendStep_h s with h | ⟨k, h⟩ <;> rw [h]
    · exact .sent hs
    · exact .writeFailed hs k
  | wait hs => exact .waited hs
  | read hs _ =>
    rcases afterRead_busRead_h s s.h.periphAddr with ⟨bs, hb, h⟩ | ⟨k, h⟩ <;> rw [h]
    · exact .gotBytes hs bs hb
    · exact .readFailed hs k
  | validate hs st d hl hd => exact validateStatus_h s st d hs hl hd
  | validateError hs e _ => exact .undecodable hs e
  | dispatch _ c d _ => rw [(dispatchCommand_cfg_h s c d).2]; exact .same

/-! The registers of `P` after a step. -/

/-- All that the registers of `P` and the model's `link` can be after a step (R113, R114, R120, R126, R167, log 6). -/
inductive PeriphMove (s : State) : PeriphRegs → Link → Prop
  | same (l : Link) (hl : l = s.link ∨ l ≠ .owed) : PeriphMove s s.p l
  | reset (l : Link) (hl : l ≠ .owed) : PeriphMove s (PeriphRegs.reset s.cfg) l
  | received (cs : List Nat) (b : List Byte) :
      PeriphMove s (receiveAll s.cfg s.p (eventsOf s.cfg cs b)) (linkOf s.p (receiveAll s.cfg s.p (eventsOf s.cfg cs b)))
  | chosen (hs : s.p.state = .dispatching) (st : Status) (d : List Byte) (hl : d.length = s.cfg.pD)
      (hz : st ≠ .ok → d = zeros s.cfg.pD) :
      PeriphMove s { s.p with rstatus := statusCode st, rdata := d, state := .responding } s.link
  | committed (hs : s.p.state = .responding) :
      PeriphMove s { s.p with txb := encodeFrame s.cfg s.p.rstatus s.p.rdata, txbValid := true, state := .idle }
        (linkAnswered s.link)

theorem answerData_length (prm : Params) (a : ActAnswer) : (answerData prm a).length = prm.pD := by
  cases a <;> simp [answerData]

/-- Only an `Ok` answer brings data (R123, R110). -/
theorem answerData_of_not_ok (prm : Params) (a : ActAnswer) (h : answerStatus a ≠ .ok) :
    answerData prm a = zeros prm.pD := by
  cases a with
  | ok rd => exact absurd rfl h
  | domainError | pending => rfl

theorem refuseFrame_periph (e : DecodeError) (hs : s.p.state = .dispatching) :
    PeriphMove s (refuseFrame e s).p (refuseFrame e s).link :=
  .chosen hs (decodeErrorStatus e) (zeros s.cfg.pD) (zeros_length _) fun _ => rfl

theorem dispatchCommand_periph (c : Cmd) (d : List Byte) (hs : s.p.state = .dispatching) :
    PeriphMove s (dispatchCommand c d s).p (dispatchCommand c d s).link := by
  rcases dispatchCommand_cases s c d with ⟨h, -⟩ | ⟨-, -, h⟩ | ⟨-, -, -, h⟩ | ⟨-, -, -, h⟩
  · exact absurd hs h
  · rw [h]; exact refuseFrame_periph s _ hs
  · rw [h, actOn_p, actOn_link]
    exact .chosen hs _ _ (answerData_length _ _) (answerData_of_not_ok _ _)
  · rw [h]; exact .chosen hs .errorOutOfRange _ (zeros_length _) fun _ => rfl

theorem wordEffect_cfg_p {s u : State} (h : WordEffect s u) : u.cfg = s.cfg ∧ u.p = s.p := by
  cases h <;> exact ⟨rfl, rfl⟩

/-- A control word keeps `link` but for `TXN`, which clears it (log 6). -/
theorem wordEffect_link {s u : State} (h : WordEffect s u) : u.link = s.link ∨ u.link ≠ .owed := by
  cases h with
  | txn => right; rw [startTransaction_link]; decide
  | _ => exact .inl rfl

theorem move_periph {s t : State} (h : Move s t) : PeriphMove s t.p t.link := by
  cases h with
  | stay | replies _ _ | wait _ | validateError _ _ _ => exact .same _ (.inl rfl)
  | word u hr he =>
    rw [reply_p, reply_link, (wordEffect_cfg_p he).2]
    exact .same _ (wordEffect_link he)
  | send hs =>
    rw [sendStep, afterWrite_p, afterWrite_link]
    rcases busWrite_p_link s s.h.periphAddr s.h.txf with ⟨hp, hl⟩ | ⟨cs, b, hp, hl⟩ <;> rw [hp, hl]
    · exact .same _ (.inl rfl)
    · exact .received cs b
  | read _ _ =>
    obtain ⟨-, -, hp, hl⟩ := sameButDraws_fields (busRead_same s s.h.periphAddr s.cfg.pL)
    rw [afterRead_p, afterRead_link, hp, hl]
    exact .same _ (.inl rfl)
  | validate _ st d _ _ =>
    obtain ⟨-, hp, hl⟩ := validateStatus_cfg_p_link s st d
    rw [hp, hl]; exact .same _ (.inl rfl)
  | dispatch hs c d _ => exact dispatchCommand_periph s c d hs
  | dispatchError hs e => exact refuseFrame_periph s e hs
  | respond hs => exact .committed hs

theorem move_cfg {s t : State} (h : Move s t) : t.cfg = s.cfg := by
  cases h with
  | stay | replies _ _ | wait _ | validateError _ _ _ | dispatchError _ _ | respond _ => rfl
  | word u _ he => exact (wordEffect_cfg_p he).1
  | send _ => exact sendStep_cfg s
  | read _ _ => rw [afterRead_cfg, (sameButDraws_fields (busRead_same s _ _)).1]
  | validate _ st d _ _ => exact (validateStatus_cfg_p_link s st d).1
  | dispatch _ c d _ => exact (dispatchCommand_cfg_h s c d).1

/-! One step, resets among them, on both instances. -/

theorem linkLost_ne_owed (l : Link) : linkLost l ≠ .owed := by cases l <;> decide

theorem resetMove_instances {s t : State} (h : ResetMove s t) :
    t.cfg = s.cfg ∧ HostMove s t.h ∧ PeriphMove s t.p t.link := by
  cases h with
  | host rest _ => exact ⟨rfl, .reset, .same _ (.inr (by simp))⟩
  | periph rest _ => exact ⟨rfl, .same, .reset _ (linkLost_ne_owed _)⟩
  | power rest _ => exact ⟨rfl, .reset, .reset _ (linkLost_ne_owed .none)⟩

/-- A step makes a move of `H`'s registers and one of `P`'s, from a state that differs from the first one only in the
model's queues. -/
theorem step_instances {s t : State} (h : step s = .next t) :
    ∃ u, SameButQueues s u ∧ t.cfg = u.cfg ∧ HostMove u t.h ∧ PeriphMove u t.p t.link := by
  obtain ⟨-, hreset | ⟨u, hu, hmove⟩⟩ := step_moves s t h
  · exact ⟨s, rfl, resetMove_instances hreset⟩
  · exact ⟨u, hu, move_cfg hmove, move_host hmove, move_periph hmove⟩

end Sys2Proof.Proofs.Instances
end

section
/-! SUPPORT. Proofs of the statements on the registers, part 2: receiving in closed form, and the three invariants over
resets and steps. -/

namespace Sys2Proof.Proofs.Invariants

open Sys2Proof.Machine Sys2Proof.Laws Sys2Proof.Proofs.Instances

/-! Receiving (R115 to R118). -/

/-- Whether the frame is complete, by the mode's end check (R117, R118). -/
theorem endCheck_state (prm : Params) (last : Bool) (p : PeriphRegs) :
    endCheck prm last p = { p with
      state := if (if prm.partialDelivery then prm.pL ≤ p.rxn else last = true) then .dispatching else p.state } := by
  unfold endCheck
  cases prm.partialDelivery with
  | false => cases last <;> rfl
  | true => by_cases hn : prm.pL ≤ p.rxn <;> simp [hn]

/-- A `P` in RECEIVING stores the bytes, then makes the end check. -/
theorem receive_continue (prm : Params) (p : PeriphRegs) (bytes : List Byte) (last : Bool) (hs : p.state = .receiving)
    (hb : p.rxb.length = prm.pL) (hn : p.rxn ≤ prm.pL + 1) :
    receive prm p bytes last = { p with
      state :=
        if (if prm.partialDelivery then prm.pL ≤ p.rxn + bytes.length else last = true) then .dispatching
        else .receiving
      rxn := min (p.rxn + bytes.length) (prm.pL + 1)
      rxb := p.rxb.take p.rxn ++ bytes.take (prm.pL - p.rxn) ++ p.rxb.drop (p.rxn + bytes.length) } := by
  have hle : prm.pL ≤ min (p.rxn + bytes.length) (prm.pL + 1) ↔ prm.pL ≤ p.rxn + bytes.length := by omega
  have hr : receive prm p bytes last = endCheck prm last (storeBytes prm p bytes) := by simp [receive, hs]
  rw [hr, storeBytes_frame, storeBytes_rxn prm bytes p hn, storeBytes_rxb prm bytes p hb, endCheck_state]
  simp only [hle, hs]

/-- A `P` in IDLE starts a frame: it goes on as one in RECEIVING that holds no byte (R115). -/
theorem receive_start (prm : Params) (p : PeriphRegs) (bytes : List Byte) (last : Bool) (hs : p.state = .idle) :
    receive prm p bytes last = receive prm { p with rxn := 0, state := .receiving } bytes last := by
  simp [receive, hs]

/-- Settles O40: from IDLE as from RECEIVING, by the closed form of storing and the end check. -/
theorem receivedBytesAreStoredInOrder : Obligations.ReceivedBytesAreStoredInOrder := by
  intro prm p bytes last hs hb hn
  rcases hs with hs | hs
  · rw [receive_start prm p bytes last hs,
      receive_continue prm { p with rxn := 0, state := .receiving } bytes last rfl hb (Nat.zero_le _)]
    simp only [hs, if_true]
  · rw [receive_continue prm p bytes last hs hb hn]
    simp only [hs, reduceCtorEq, if_false]

/-! The shapes of the buffers, of `H` and of `P` apart. -/

/-- The part of `BufferShapes` on the registers of `H`. -/
structure HostShapes (prm : Params) (h : HostRegs) : Prop where
  reqData : h.reqData.length = prm.pD
  txf : h.txf.length = prm.pL
  rxf : h.rxf.length = prm.pL
  rxn : h.rxn.toNat = 0 ∨ h.rxn.toNat = prm.pL
  respData : h.respData.length = prm.pD

/-- The part of `BufferShapes` on the registers of `P`. -/
structure PeriphShapes (prm : Params) (p : PeriphRegs) : Prop where
  rxb : p.rxb.length = prm.pL
  rxn : p.rxn ≤ prm.pL + 1
  rdata : p.rdata.length = prm.pD
  txb : p.txb.length = prm.pL

theorem bufferShapes_iff (s : State) :
    BufferShapes s ↔ legalParams s.cfg = true ∧ HostShapes s.cfg s.h ∧ PeriphShapes s.cfg s.p :=
  ⟨fun b => ⟨b.legal, ⟨b.reqData, b.txf, b.rxf, b.rxn, b.respData⟩, ⟨b.rxb, b.periphRxn, b.rdata, b.txb⟩⟩,
    fun ⟨l, h, p⟩ => ⟨l, h.reqData, h.txf, h.rxf, h.rxn, h.respData, p.rxb, p.rxn, p.rdata, p.txb⟩⟩

theorem hostShapes_reset (prm : Params) : HostShapes prm (HostRegs.reset prm) :=
  ⟨zeros_length _, zeros_length _, zeros_length _, .inl rfl, zeros_length _⟩

theorem periphShapes_reset (prm : Params) : PeriphShapes prm (PeriphRegs.reset prm) :=
  ⟨zeros_length _, Nat.zero_le _, zeros_length _, zeros_length _⟩

/-- An encoded frame has `P_L` bytes (R61). -/
theorem encodeFrame_pL (prm : Params) (c : Byte) (d : List Byte) (hd : d.length = prm.pD) :
    (encodeFrame prm c d).length = prm.pL := by
  rw [encodeFrame_length, hd, Params.pL]

/-- A legal frame length fits in the count register (R9, R21). -/
theorem pL_toNat (prm : Params) (h : legalParams prm = true) : (BitVec.ofNat 8 prm.pL).toNat = prm.pL := by
  simp only [legalParams, Bool.and_eq_true, decide_eq_true_eq] at h
  obtain ⟨⟨-, h14⟩, -⟩ := h
  rw [BitVec.toNat_ofNat, Params.pL]
  omega

theorem wordEffect_hostShapes {s u : State} (he : WordEffect s u) (hs : HostShapes s.cfg s.h) :
    HostShapes s.cfg u.h := by
  cases he with
  | crcInit | crcUpd _ | crcFin | reqCmd _ | address _ | wait _ | ack =>
    exact ⟨hs.reqData, hs.txf, hs.rxf, hs.rxn, hs.respData⟩
  | reqData k imm => exact ⟨by simpa using hs.reqData, hs.txf, hs.rxf, hs.rxn, hs.respData⟩
  | enc => exact ⟨hs.reqData, encodeFrame_pL _ _ _ hs.reqData, hs.rxf, hs.rxn, hs.respData⟩
  | decOk st d hd => exact ⟨hs.reqData, hs.txf, hs.rxf, hs.rxn, (decodeFrame_ok _ _ _ _ _ hd).1⟩
  | decError e _ => exact ⟨hs.reqData, hs.txf, hs.rxf, hs.rxn, zeros_length _⟩
  | txn => exact ⟨hs.reqData, encodeFrame_pL _ _ _ hs.reqData, zeros_length _, .inl rfl, zeros_length _⟩

theorem hostMove_shapes {s : State} {h : HostRegs} (hm : HostMove s h) (hb : BufferShapes s) : HostShapes s.cfg h := by
  obtain ⟨hl, hs, hp⟩ := (bufferShapes_iff s).1 hb
  cases hm with
  | same => exact hs
  | reset => exact hostShapes_reset s.cfg
  | word u _ he => exact wordEffect_hostShapes he hs
  | sent _ | waited _ | writeFailed _ _ | undecodable _ _ =>
    exact ⟨hs.reqData, hs.txf, hs.rxf, hs.rxn, hs.respData⟩
  | gotBytes _ bs hbs =>
    have hlen : bs.length = s.cfg.pL := hbs.elim (fun h => h ▸ hp.txb) id
    exact ⟨hs.reqData, hs.txf, hlen, .inr (pL_toNat _ hl), hs.respData⟩
  | readFailed _ _ => exact ⟨hs.reqData, hs.txf, zeros_length _, .inl rfl, hs.respData⟩
  | gotOk _ d hd _ | gotFailure _ _ _ d hd _ => exact ⟨hs.reqData, hs.txf, hs.rxf, hs.rxn, hd⟩

theorem receive_shapes (prm : Params) (p : PeriphRegs) (bs : List Byte) (last : Bool) (hp : PeriphShapes prm p) :
    PeriphShapes prm (receive prm p bs last) := by
  have stored : ∀ q : PeriphRegs, PeriphShapes prm q → PeriphShapes prm (endCheck prm last (storeBytes prm q bs)) := by
    intro q hq
    obtain ⟨hb, hn, -⟩ := storeBytes_shape prm bs q hq.rxb hq.rxn
    rw [endCheck_state, storeBytes_frame]
    exact ⟨hb, hn, hq.rdata, hq.txb⟩
  unfold receive
  split
  · exact stored _ ⟨hp.rxb, Nat.zero_le _, hp.rdata, hp.txb⟩
  · exact stored p hp
  · exact ⟨hp.rxb, hp.rxn, hp.rdata, hp.txb⟩
  · exact ⟨hp.rxb, hp.rxn, hp.rdata, hp.txb⟩

/-- What every receive event keeps, the receive events of a write keep. -/
theorem receiveAll_keeps (prm : Params) (Q : PeriphRegs → Prop) (es : List (List Byte × Bool))
    (hQ : ∀ p, ∀ e ∈ es, Q p → Q (receive prm p e.1 e.2)) (p : PeriphRegs) (hp : Q p) : Q (receiveAll prm p es) :=
  List.foldlRecOn es _ hp fun p hp e he => hQ p e he hp

theorem receiveAll_shapes (prm : Params) (es : List (List Byte × Bool)) (p : PeriphRegs) (hp : PeriphShapes prm p) :
    PeriphShapes prm (receiveAll prm p es) :=
  receiveAll_keeps prm (PeriphShapes prm) es (fun p e _ => receive_shapes prm p e.1 e.2) p hp

theorem periphMove_shapes {s : State} {p : PeriphRegs} {l : Link} (hm : PeriphMove s p l)
    (hp : PeriphShapes s.cfg s.p) : PeriphShapes s.cfg p := by
  cases hm with
  | same _ _ => exact hp
  | reset _ _ => exact periphShapes_reset s.cfg
  | received cs b => exact receiveAll_shapes s.cfg _ s.p hp
  | chosen _ st d hd _ => exact ⟨hp.rxb, hp.rxn, hd, hp.txb⟩
  | committed _ => exact ⟨hp.rxb, hp.rxn, hp.rdata, encodeFrame_pL _ _ _ hp.rdata⟩

/-- `BufferShapes` does not read the model's queues. -/
theorem bufferShapes_queues {s u : State} (hu : SameButQueues s u) (hb : BufferShapes s) : BufferShapes u := by
  obtain ⟨hcfg, hh, hp, -⟩ := sameButQueues_fields hu
  rwa [bufferShapes_iff, hcfg, hh, hp, ← bufferShapes_iff]

/-- Settles O48: each move of `H`'s registers keeps their shapes, and so does each one of `P`'s. -/
theorem stepKeepsBufferShapes : Obligations.StepKeepsBufferShapes := by
  intro s t hb hstep
  obtain ⟨u, hu, hcfg, hhost, hperiph⟩ := step_instances hstep
  have hbu := bufferShapes_queues hu hb
  obtain ⟨hl, -, hp⟩ := (bufferShapes_iff u).1 hbu
  rw [bufferShapes_iff, hcfg]
  exact ⟨hl, hostMove_shapes hhost hbu, periphMove_shapes hperiph hp⟩

/-! The coherence of the registers of `H`. -/

/-- `HostCoherent` reads the parameters and the registers of `H` and nothing else. -/
theorem hostCoherent_of_same {s t : State} (hcfg : t.cfg = s.cfg) (hh : t.h = s.h) (hc : HostCoherent s) :
    HostCoherent t := by
  obtain ⟨cfg, h, p, act, link, inputs, draws, drawCount, replies⟩ := t
  subst hcfg hh
  exact ⟨hc.cause, hc.noResponse, hc.response, hc.inFlight, hc.unread, hc.read, hc.done, hc.failed⟩

theorem hostCoherent_reset (s : State) : HostCoherent { s with h := HostRegs.reset s.cfg } where
  cause := .inl ⟨rfl, rfl⟩
  noResponse _ := ⟨rfl, rfl⟩
  response h := by cases h
  inFlight h := by rcases h with h | h | h | h <;> cases h
  unread _ := rfl
  read h := by cases h
  done h := by cases h
  failed h := by cases h

theorem not_busy_of_atRest {st : HostState} (h : st.atRest) : ¬ st.busy := by
  rcases h with rfl | rfl | rfl <;> simp [HostState.busy]

/-- With no transaction in flight nothing is said of the checksum engine, the request and the configuration. -/
theorem hostCoherent_at_rest {s : State} {h : HostRegs} (hc : HostCoherent s) (hr : s.h.state.atRest)
    (hh : h = { s.h with
      reqCmd := h.reqCmd, reqData := h.reqData, txf := h.txf, crc := h.crc, result := h.result
      periphAddr := h.periphAddr, waitUs := h.waitUs }) : HostCoherent { s with h := h } := by
  rw [hh]
  exact ⟨hc.cause, hc.noResponse, hc.response, fun hb => absurd hb (not_busy_of_atRest hr), hc.unread, hc.read,
    hc.done, hc.failed⟩

theorem hostCoherent_decOk {s : State} (hc : HostCoherent s) (hr : s.h.state.atRest) (st : Byte) (d : List Byte)
    (hd : decodeFrame s.cfg .resp (readBytes s.h) = .ok (st, d)) :
    HostCoherent { s with h := { s.h with respValid := true, respStatus := st, respData := d, result := 0x00 } } where
  cause := hc.cause
  noResponse h := by cases h
  response _ := hd
  inFlight hb := absurd hb (not_busy_of_atRest hr)
  unread := hc.unread
  read := hc.read
  done hdone := by
    obtain ⟨hcause, hvalid, hstatus⟩ := hc.done hdone
    have heq := hd.symm.trans (hc.response hvalid)
    simp only [Except.ok.injEq, Prod.mk.injEq] at heq
    exact ⟨hcause, rfl, heq.1.trans hstatus⟩
  failed := hc.failed

/-- In DONE the read buffer decodes, so an undecodable one leaves the other two states of rest. -/
theorem hostCoherent_decError {s : State} (hc : HostCoherent s) (hr : s.h.state.atRest) (e : DecodeError)
    (hd : decodeFrame s.cfg .resp (readBytes s.h) = .error e) :
    HostCoherent { s with h := { s.h with
      respValid := false, respStatus := 0x00, respData := zeros s.cfg.pD, result := decodeErrorCode e } } where
  cause := hc.cause
  noResponse _ := ⟨rfl, rfl⟩
  response h := by cases h
  inFlight hb := absurd hb (not_busy_of_atRest hr)
  unread := hc.unread
  read := hc.read
  done hdone := by
    obtain ⟨-, hvalid, -⟩ := hc.done hdone
    cases hd.symm.trans (hc.response hvalid)
  failed := hc.failed

theorem hostCoherent_word {s u : State} (hc : HostCoherent s) (hr : s.h.state.atRest) (he : WordEffect s u) :
    HostCoherent { s with h := u.h } := by
  cases he with
  | crcInit | crcUpd _ | crcFin | reqCmd _ | reqData _ _ | enc | address _ | wait _ =>
    exact hostCoherent_at_rest hc hr rfl
  | decOk st d hd => exact hostCoherent_decOk hc hr st d hd
  | decError e hd => exact hostCoherent_decError hc hr e hd
  | txn =>
    exact {
      cause := .inl ⟨rfl, rfl⟩
      noResponse := fun _ => ⟨rfl, rfl⟩
      response := fun h => by cases h
      inFlight := fun _ => ⟨rfl, rfl, rfl⟩
      unread := fun _ => rfl
      read := fun h => by cases h
      done := fun h => by cases h
      failed := fun h => by cases h }
  | ack =>
    exact {
      cause := hc.cause
      noResponse := hc.noResponse
      response := hc.response
      inFlight := fun h => by rcases h with h | h | h | h <;> cases h
      unread := fun h => by rcases h with h | h | h <;> cases h
      read := fun h => by cases h
      done := fun h => by cases h
      failed := fun h => by cases h }

/-- A transaction goes on: from one state in flight to the next, with the cause, the response and `TXF` as they were, and
the read buffer as the state reached asks for it. -/
theorem hostCoherent_advance {s : State} (hc : HostCoherent s) (hb : s.h.state.busy) (st : HostState)
    (rxf : List Byte) (rxn : BitVec 8) (hst : st.busy)
    (hunread : st = .sending ∨ st = .waiting ∨ st = .reading → rxn = 0)
    (hread : st = .validating → rxn.toNat = s.cfg.pL) :
    HostCoherent { s with h := { s.h with rxf := rxf, rxn := rxn, state := st } } where
  cause := hc.cause
  noResponse := hc.noResponse
  response hvalid := absurd hvalid (by simp [(hc.inFlight hb).2.1])
  inFlight _ := hc.inFlight hb
  unread := hunread
  read := hread
  done h := by subst h; exact absurd hst (by simp [HostState.busy])
  failed h := by subst h; exact absurd hst (by simp [HostState.busy])

/-- A transaction fails (R153): a recordable cause other than none, and the response registers coherent by themselves. -/
theorem hostCoherent_fail {s : State} (h : HostRegs) (hstate : h.state = .failed) (hcause : legalCause h.cause h.causeCode)
    (hne : h.cause ≠ 0x00) (hno : h.respValid = false → h.respStatus = 0x00 ∧ h.respData = zeros s.cfg.pD)
    (hresp : h.respValid = true → decodeFrame s.cfg .resp (readBytes h) = .ok (h.respStatus, h.respData)) :
    HostCoherent { s with h := h } where
  cause := hcause
  noResponse := hno
  response := hresp
  inFlight hb := absurd hb (not_busy_of_atRest (.inr (.inr hstate)))
  unread hu := by rcases hu with hu | hu | hu <;> cases hstate.symm.trans hu
  read hv := by cases hstate.symm.trans hv
  done hd := by cases hstate.symm.trans hd
  failed _ := hne

theorem legalCause_bus (cause : Byte) (h : cause = 0x40 ∨ cause = 0x60) (k : BusError) :
    legalCause cause (busErrorCode k) :=
  .inr (.inl ⟨h, by cases k <;> decide⟩)

theorem legalCause_decode (e : DecodeError) : legalCause 0x80 (decodeErrorCode e) :=
  .inr (.inr (.inl ⟨rfl, by cases e <;> decide⟩))

theorem legalCause_status (st : Status) (h : st ≠ .ok) : legalCause 0xC0 (statusCode st) := by
  refine .inr (.inr (.inr ⟨rfl, ?_⟩))
  cases st with
  | ok => exact absurd rfl h
  | errorBadCrc | errorUnknownCommand | errorBusy | errorOutOfRange | errorDomain | errorBadLength => decide

theorem hostMove_coherent {s : State} {h : HostRegs} (hm : HostMove s h) (hb : BufferShapes s) (hc : HostCoherent s) :
    HostCoherent { s with h := h } := by
  have noResponse_of_busy (hbusy : s.h.state.busy) : s.h.respValid = true → False := by
    simp [(hc.inFlight hbusy).2.1]
  cases hm with
  | same => exact hc
  | reset => exact hostCoherent_reset s
  | word u hr he => exact hostCoherent_word hc hr he
  | sent hs =>
    exact hostCoherent_advance hc (.inl hs) .waiting s.h.rxf s.h.rxn (.inr (.inl rfl)) (fun _ => hc.unread (.inl hs))
      (fun h => by cases h)
  | waited hs =>
    exact hostCoherent_advance hc (.inr (.inl hs)) .reading s.h.rxf s.h.rxn (.inr (.inr (.inl rfl)))
      (fun _ => hc.unread (.inr (.inl hs))) (fun h => by cases h)
  | gotBytes hs bs _ =>
    exact hostCoherent_advance hc (.inr (.inr (.inl hs))) .validating bs _ (.inr (.inr (.inr rfl)))
      (fun h => by rcases h with h | h | h <;> cases h) (fun _ => pL_toNat _ hb.legal)
  | writeFailed hs k =>
    exact hostCoherent_fail _ rfl (legalCause_bus _ (.inl rfl) k) (show (0x40 : Byte) ≠ 0x00 by decide) hc.noResponse
      fun hv => (noResponse_of_busy (.inl hs) hv).elim
  | readFailed hs k =>
    exact hostCoherent_fail _ rfl (legalCause_bus _ (.inr rfl) k) (show (0x60 : Byte) ≠ 0x00 by decide) hc.noResponse
      fun hv => (noResponse_of_busy (.inr (.inr (.inl hs))) hv).elim
  | undecodable hs e =>
    exact hostCoherent_fail _ rfl (legalCause_decode e) (show (0x80 : Byte) ≠ 0x00 by decide) hc.noResponse
      fun hv => (noResponse_of_busy (.inr (.inr (.inr hs))) hv).elim
  | gotFailure hs st hst d _ hd =>
    exact hostCoherent_fail _ rfl (legalCause_status st hst) (show (0xC0 : Byte) ≠ 0x00 by decide)
      (fun h => by cases h) fun _ => hd
  | gotOk hs d _ hd =>
    obtain ⟨hcause, -, -⟩ := hc.inFlight (.inr (.inr (.inr hs)))
    exact {
      cause := hc.cause
      noResponse := fun h => by cases h
      response := fun _ => hd
      inFlight := fun h => by rcases h with h | h | h | h <;> cases h
      unread := fun h => by rcases h with h | h | h <;> cases h
      read := fun h => by cases h
      done := fun _ => ⟨hcause, rfl, rfl⟩
      failed := fun h => by cases h }

/-- Settles O49: each move of `H`'s registers keeps them coherent; only the length read needs the legal configuration. -/
theorem stepKeepsHostCoherent : Obligations.StepKeepsHostCoherent := by
  intro s t hb hc hstep
  obtain ⟨u, hu, hcfg, hhost, -⟩ := step_instances hstep
  obtain ⟨hucfg, huh, -, -⟩ := sameButQueues_fields hu
  have hcu := hostCoherent_of_same hucfg huh hc
  have hmoved := hostMove_coherent hhost (bufferShapes_queues hu hb) hcu
  exact hostCoherent_of_same (s := { u with h := t.h }) hcfg rfl hmoved

/-! The coherence of the registers of `P`. -/

/-- `PeriphCoherent` reads the parameters, the registers of `P` and `link`, and nothing else. -/
theorem periphCoherent_of_same {s t : State} (hcfg : t.cfg = s.cfg) (hp : t.p = s.p) (hl : t.link = s.link)
    (hc : PeriphCoherent s) : PeriphCoherent t := by
  obtain ⟨cfg, h, p, act, link, inputs, draws, drawCount, replies⟩ := t
  subst hcfg hp hl
  exact ⟨hc.ownAddr, hc.wholeWrites, hc.missingBytes, hc.status, hc.errorData, hc.committed, hc.owed⟩

theorem periphCoherent_reset (s : State) (l : Link) (hl : l ≠ .owed) :
    PeriphCoherent { s with p := PeriphRegs.reset s.cfg, link := l } where
  ownAddr := rfl
  wholeWrites _ h := by cases h
  missingBytes h := by cases h
  status h := by rcases h with h | h <;> cases h
  errorData _ := rfl
  committed h := by cases h
  owed h := absurd h hl

/-- RECEIVING means that the frame is not complete, by the mode (R113, R118). -/
def Incomplete (prm : Params) (p : PeriphRegs) : Prop :=
  p.state = .receiving → prm.partialDelivery = true ∧ p.rxn < prm.pL

/-- Without partial delivery every receive event of a write is its last one (R52). -/
theorem eventsOf_last (prm : Params) (hpd : prm.partialDelivery = false) (cs : List Nat) (b : List Byte) :
    ∀ e ∈ eventsOf prm cs b, e.2 = true := by
  simp [eventsOf, hpd]

/-- A listening `P` is left in RECEIVING or DISPATCHING, and in RECEIVING only with bytes missing. -/
theorem receive_listening (prm : Params) (p : PeriphRegs) (bs : List Byte) (last : Bool)
    (hs : p.state = .idle ∨ p.state = .receiving) (hp : PeriphShapes prm p)
    (hlast : prm.partialDelivery = false → last = true) :
    (receive prm p bs last).state ≠ .responding ∧ Incomplete prm (receive prm p bs last) := by
  unfold Incomplete
  rw [receivedBytesAreStoredInOrder prm p bs last hs hp.rxb hp.rxn]
  generalize (if p.state = .idle then 0 else p.rxn) = held
  cases hpd : prm.partialDelivery with
  | false => simp [hlast hpd]
  | true => by_cases hfull : prm.pL ≤ held + bs.length <;> simp [hfull]; omega

theorem receive_keeps_state (prm : Params) (p : PeriphRegs) (bs : List Byte) (last : Bool) (hp : PeriphShapes prm p)
    (hlast : prm.partialDelivery = false → last = true) :
    ((receive prm p bs last).state = .responding ↔ p.state = .responding)
    ∧ Incomplete prm (receive prm p bs last) := by
  cases hs : p.state with
  | idle =>
    obtain ⟨hne, hinc⟩ := receive_listening prm p bs last (.inl hs) hp hlast
    exact ⟨by simp [hne], hinc⟩
  | receiving =>
    obtain ⟨hne, hinc⟩ := receive_listening prm p bs last (.inr hs) hp hlast
    exact ⟨by simp [hne], hinc⟩
  | dispatching => rw [receive_busy prm p bs last (.inl hs)]; simp [Incomplete, hs]
  | responding => rw [receive_busy prm p bs last (.inr hs)]; simp [Incomplete, hs]

/-- The receive events of one write neither begin nor end RESPONDING, and leave RECEIVING only where the mode admits it. -/
theorem receiveAll_state (prm : Params) (cs : List Nat) (b : List Byte) (p : PeriphRegs) (hp : PeriphShapes prm p)
    (hinc : Incomplete prm p) :
    ((receiveAll prm p (eventsOf prm cs b)).state = .responding ↔ p.state = .responding)
    ∧ Incomplete prm (receiveAll prm p (eventsOf prm cs b)) := by
  have kept := receiveAll_keeps prm
    (fun q => PeriphShapes prm q ∧ (q.state = .responding ↔ p.state = .responding) ∧ Incomplete prm q)
    (eventsOf prm cs b) (fun q e he ⟨hq, hiff, _⟩ => by
      obtain ⟨hiff', hinc'⟩ := receive_keeps_state prm q e.1 e.2 hq fun hpd => eventsOf_last prm hpd cs b e he
      exact ⟨receive_shapes prm q e.1 e.2 hq, hiff'.trans hiff, hinc'⟩) p ⟨hp, Iff.rfl, hinc⟩
  exact kept.2

theorem periphCoherent_received {s : State} (hb : BufferShapes s) (hc : PeriphCoherent s) (cs : List Nat)
    (b : List Byte) :
    PeriphCoherent { s with
      p := receiveAll s.cfg s.p (eventsOf s.cfg cs b)
      link := linkOf s.p (receiveAll s.cfg s.p (eventsOf s.cfg cs b)) } := by
  obtain ⟨-, -, hp⟩ := (bufferShapes_iff s).1 hb
  have hinc : Incomplete s.cfg s.p := fun h =>
    ⟨(Bool.eq_false_or_eq_true s.cfg.partialDelivery).resolve_right fun hpd => hc.wholeWrites hpd h, hc.missingBytes h⟩
  obtain ⟨hresp, hinc'⟩ := receiveAll_state s.cfg cs b s.p hp hinc
  have howed := linkOf_owed s.p (receiveAll s.cfg s.p (eventsOf s.cfg cs b))
  obtain ⟨st, rxb, rxn, o, hframe⟩ := receives_frame s.cfg (eventsOf s.cfg cs b) s.p
  rw [hframe] at hresp hinc' howed ⊢
  exact {
    ownAddr := hc.ownAddr
    wholeWrites := fun hpd h => Bool.false_ne_true (hpd.symm.trans (hinc' h).1)
    missingBytes := fun h => (hinc' h).2
    status := fun h => hc.status (h.imp_left hresp.1)
    errorData := hc.errorData
    committed := fun hv hne => hc.committed hv fun h => hne (hresp.2 h)
    owed := howed }

theorem linkAnswered_ne_owed (l : Link) : linkAnswered l ≠ .owed := by cases l <;> decide

theorem periphMove_coherent {s : State} {p : PeriphRegs} {l : Link} (hm : PeriphMove s p l) (hb : BufferShapes s)
    (hc : PeriphCoherent s) : PeriphCoherent { s with p := p, link := l } := by
  cases hm with
  | same l hl =>
    exact ⟨hc.ownAddr, hc.wholeWrites, hc.missingBytes, hc.status, hc.errorData, hc.committed,
      fun ho => hc.owed (hl.elim (fun h => h ▸ ho) fun hne => absurd ho hne)⟩
  | reset l hl => exact periphCoherent_reset s l hl
  | received cs b => exact periphCoherent_received hb hc cs b
  | chosen _ st d _ hz =>
    exact {
      ownAddr := hc.ownAddr
      wholeWrites := fun _ h => by cases h
      missingBytes := fun h => by cases h
      status := fun _ => by simp
      errorData := fun hne => hz fun hok => hne (by rw [hok]; rfl)
      committed := fun _ h => absurd rfl h
      owed := fun _ => .inr rfl }
  | committed hs =>
    exact {
      ownAddr := hc.ownAddr
      wholeWrites := fun _ h => by cases h
      missingBytes := fun h => by cases h
      status := fun _ => hc.status (.inl hs)
      errorData := hc.errorData
      committed := fun _ _ => rfl
      owed := fun h => absurd h (linkAnswered_ne_owed s.link) }

/-- Settles O50: each move of `P`'s registers keeps them coherent; receiving needs the shapes of the buffers. -/
theorem stepKeepsPeriphCoherent : Obligations.StepKeepsPeriphCoherent := by
  intro s t hb hc hstep
  obtain ⟨u, hu, hcfg, -, hperiph⟩ := step_instances hstep
  obtain ⟨hucfg, -, hup, hul⟩ := sameButQueues_fields hu
  have hcu := periphCoherent_of_same hucfg hup hul hc
  have hmoved := periphMove_coherent hperiph (bufferShapes_queues hu hb) hcu
  exact periphCoherent_of_same (s := { u with p := t.p, link := t.link }) hcfg rfl rfl hmoved

/-! The state after reset. -/

theorem reset_invariants (prm : Params) (h : legalParams prm = true) :
    BufferShapes (State.resetWith prm) ∧ HostCoherent (State.resetWith prm) ∧ PeriphCoherent (State.resetWith prm) :=
  ⟨(bufferShapes_iff _).2 ⟨h, hostShapes_reset prm, periphShapes_reset prm⟩,
    hostCoherent_reset (State.resetWith prm), periphCoherent_reset (State.resetWith prm) .none (by decide)⟩

/-- Settles O51: this hardware's configuration is one of the legal ones. -/
theorem resetSatisfiesInvariants : Obligations.ResetSatisfiesInvariants :=
  ⟨reset_invariants Config.params rfl, reset_invariants⟩

/-- Settles O52: each reset input is taken in one step, and the registers it leaves are those of R41 and R42. -/
theorem resetInputsResult : Obligations.ResetInputsResult := by
  intro s rest hs h p
  refine ⟨fun hi => ⟨_, step_input s _ rest hs hi⟩, fun hi => ⟨_, step_input s _ rest hs hi⟩,
    fun hi => ⟨_, step_input s _ rest hs hi⟩⟩

end Sys2Proof.Proofs.Invariants
end

section
/-! SUPPORT. Proofs of the statements on the registers, part 3: `CFG.SET`, `RD` and the expansion of `REQ`. -/

namespace Sys2Proof.Proofs.ControlRegisters

open Sys2Proof.Machine Sys2Proof.Laws Sys2Proof.Proofs.Scope

/-! `CFG.SET` (R144). -/

theorem execCfgSet_accepted (s : State) (sel : BitVec 4) (imm : Byte) (hr : s.h.state.atRest)
    (hl : (cfgSelLegal sel && cfgImmLegal sel imm) = true) :
    exec (.cfgSet sel imm) s = .next (reply .accepted 0x00 (setConfig sel imm s)) := by
  have h := portOp_accepted s (setConfig sel imm) hr
  rwa [← hl] at h

theorem cfgImmLegal_address (imm : Byte) (h : imm.toNat < 128) : cfgImmLegal 0 imm = true := by
  have hbit : imm.getLsbD 7 = false := Nat.testBit_lt_two_pow h
  rw [cfgImmLegal, hbit]; rfl

theorem append_toNat (hi lo : Byte) : (hi ++ lo).toNat = hi.toNat * 256 + lo.toNat := by
  rw [BitVec.toNat_append, ← Nat.shiftLeft_add_eq_or_of_lt lo.isLt, Nat.shiftLeft_eq]

theorem lowByte_toNat (w : BitVec 16) : (w.extractLsb' 0 8).toNat = w.toNat % 256 := by simp

theorem highByte_toNat (w : BitVec 16) : (w.extractLsb' 8 8).toNat = w.toNat / 256 := by
  have := w.isLt
  rw [BitVec.extractLsb'_toNat, Nat.shiftRight_eq_div_pow]
  omega

/-- Settles O17: the three selectors are legal, and each half of the delay is one byte of an append. -/
theorem configSetResult : Obligations.ConfigSetResult := by
  intro s imm hr
  refine ⟨fun himm => ⟨imm.extractLsb' 0 7, ?_, ?_⟩, ⟨s.h.waitUs.extractLsb' 8 8 ++ imm, ?_, ?_⟩,
    ⟨imm ++ s.h.waitUs.extractLsb' 0 8, ?_, ?_⟩⟩
  · rw [BitVec.extractLsb'_toNat]; exact Nat.mod_eq_of_lt himm
  · rw [execCfgSet_accepted s 0 imm hr (cfgImmLegal_address imm himm), setConfig_address]; rfl
  · rw [append_toNat, highByte_toNat]
  · rw [execCfgSet_accepted s 1 imm hr rfl, setConfig_waitLow]; rfl
  · rw [append_toNat, lowByte_toNat]
  · rw [execCfgSet_accepted s 2 imm hr rfl, setConfig_waitHigh]; rfl

/-! `RD` and the register map (R29, R145). -/

/-- `RD` of a mapped register is accepted with its value, in every state (R157). -/
theorem execRd_mapped (s : State) (n : Nat) (b : Byte) (hm : regMapped s.cfg (BitVec.ofNat 8 n) = true)
    (hv : regRead s.cfg s.h (BitVec.ofNat 8 n) = b) :
    exec (.rd (BitVec.ofNat 8 n)) s = .next { s with replies := s.replies ++ [⟨.accepted, b⟩] } := by
  subst hv
  have h : portRead true (regRead s.cfg s.h (BitVec.ofNat 8 n)) s = .next (reply .accepted _ s) := rfl
  rw [← hm] at h
  exact h

theorem regMapped_ofNat (prm : Params) (n : Nat) (hn : n < 256) : regMapped prm (BitVec.ofNat 8 n) = true ↔
    n ≤ 0x0D ∨ (0x10 ≤ n ∧ n ≤ 0x10 + prm.pD) ∨ (0x20 ≤ n ∧ n < 0x20 + prm.pL) ∨ (0x30 ≤ n ∧ n < 0x30 + prm.pL)
      ∨ (0x40 ≤ n ∧ n < 0x40 + prm.pD) := by
  simp [regMapped, Nat.mod_eq_of_lt hn, or_assoc]

/-- Past the single registers the map is the four indexed ones, in order. -/
theorem regRead_indexed (prm : Params) (h : HostRegs) (n : Nat) (hlow : 0x11 ≤ n) (hn : n < 256) :
    regRead prm h (BitVec.ofNat 8 n)
      = if n < 0x20 then h.reqData.getD (n - 0x11) 0
        else if n < 0x20 + prm.pL then h.txf.getD (n - 0x20) 0
        else if n < 0x30 + prm.pL then h.rxf.getD (n - 0x30) 0
        else h.respData.getD (n - 0x40) 0 := by
  have hnat : (BitVec.ofNat 8 n).toNat = n := Nat.mod_eq_of_lt hn
  unfold regRead
  rw [hnat]
  split
  case h_16 => rfl
  all_goals omega

theorem rd_reqData (s : State) (hD : s.cfg.pD ≤ 14) (k : Nat) (hk : k < s.cfg.pD) :
    exec (.rd (BitVec.ofNat 8 (0x11 + k))) s
      = .next { s with replies := s.replies ++ [⟨.accepted, s.h.reqData.getD k 0⟩] } := by
  refine execRd_mapped s _ _ ((regMapped_ofNat _ _ (by omega)).2 (by omega)) ?_
  rw [regRead_indexed _ _ _ (by omega) (by omega), if_pos (by omega), Nat.add_sub_cancel_left]

theorem rd_txf (s : State) (hD : s.cfg.pD ≤ 14) (k : Nat) (hk : k < s.cfg.pL) :
    exec (.rd (BitVec.ofNat 8 (0x20 + k))) s
      = .next { s with replies := s.replies ++ [⟨.accepted, s.h.txf.getD k 0⟩] } := by
  have hL : s.cfg.pL ≤ 16 := by rw [Params.pL]; omega
  refine execRd_mapped s _ _ ((regMapped_ofNat _ _ (by omega)).2 (by omega)) ?_
  rw [regRead_indexed _ _ _ (by omega) (by omega), if_neg (by omega), if_pos (by omega), Nat.add_sub_cancel_left]

theorem rd_rxf (s : State) (hD : s.cfg.pD ≤ 14) (k : Nat) (hk : k < s.cfg.pL) :
    exec (.rd (BitVec.ofNat 8 (0x30 + k))) s
      = .next { s with replies := s.replies ++ [⟨.accepted, s.h.rxf.getD k 0⟩] } := by
  have hL : s.cfg.pL ≤ 16 := by rw [Params.pL]; omega
  refine execRd_mapped s _ _ ((regMapped_ofNat _ _ (by omega)).2 (by omega)) ?_
  rw [regRead_indexed _ _ _ (by omega) (by omega), if_neg (by omega), if_neg (by omega), if_pos (by omega),
    Nat.add_sub_cancel_left]

theorem rd_respData (s : State) (hD : s.cfg.pD ≤ 14) (k : Nat) (hk : k < s.cfg.pD) :
    exec (.rd (BitVec.ofNat 8 (0x40 + k))) s
      = .next { s with replies := s.replies ++ [⟨.accepted, s.h.respData.getD k 0⟩] } := by
  have hL : s.cfg.pL ≤ 16 := by rw [Params.pL]; omega
  refine execRd_mapped s _ _ ((regMapped_ofNat _ _ (by omega)).2 (by omega)) ?_
  rw [regRead_indexed _ _ _ (by omega) (by omega), if_neg (by omega), if_neg (by omega), if_neg (by omega),
    Nat.add_sub_cancel_left]

theorem hostStateByte_toNat (st : HostState) : ((hostStateCode st).zeroExtend 8).toNat = (match st with
    | .idle => 0 | .sending => 1 | .waiting => 2 | .reading => 3 | .validating => 4 | .done => 5 | .failed => 6) := by
  cases st <;> rfl

theorem bitByte_toNat (b : Bool) : (bitByte b).toNat = b.toNat := by cases b <;> rfl

theorem doneOutByte_toNat (h : HostRegs) :
    (bitByte (doneOut h)).toNat = if h.state = .done ∨ h.state = .failed then 1 else 0 := by
  cases hs : h.state <;> simp [doneOut, hs, bitByte]

theorem addressByte_toNat (a : BitVec 7) : (a.zeroExtend 8).toNat = a.toNat :=
  BitVec.toNat_setWidth_of_le (by decide)

/-- Settles O20: the single registers one by one, then the four indexed ones. -/
theorem readRegisterResult : Obligations.ReadRegisterResult := by
  intro s hD gives
  have single (n : Nat) (b : Byte) (hm : n ≤ 0x0D ∨ n = 0x10) (hv : regRead s.cfg s.h (BitVec.ofNat 8 n) = b) (v : Nat)
      (hb : b.toNat = v) : gives n v :=
    ⟨b, hb, execRd_mapped s n b ((regMapped_ofNat _ _ (by omega)).2 (by omega)) hv⟩
  exact ⟨
    single 0x00 _ (by decide) rfl _ (hostStateByte_toNat s.h.state),
    single 0x01 _ (by decide) rfl _ rfl,
    single 0x02 _ (by decide) rfl _ rfl,
    single 0x03 _ (by decide) rfl _ (bitByte_toNat s.h.respValid),
    single 0x04 _ (by decide) rfl _ rfl,
    single 0x05 _ (by decide) rfl _ rfl,
    single 0x06 _ (by decide) rfl _ rfl,
    single 0x07 _ (by decide) rfl _ rfl,
    single 0x08 _ (by decide) rfl _ (addressByte_toNat s.h.periphAddr),
    single 0x09 _ (by decide) rfl _ (lowByte_toNat s.h.waitUs),
    single 0x0A _ (by decide) rfl _ (highByte_toNat s.h.waitUs),
    single 0x0B _ (by decide) rfl _ (lowByte_toNat s.h.waitLat),
    single 0x0C _ (by decide) rfl _ (highByte_toNat s.h.waitLat),
    single 0x0D _ (by decide) rfl _ (doneOutByte_toNat s.h),
    single 0x10 _ (by decide) rfl _ rfl,
    fun k hk => ⟨_, rfl, rd_reqData s hD k hk⟩,
    fun k hk => ⟨_, rfl, rd_txf s hD k hk⟩,
    fun k hk => ⟨_, rfl, rd_rxf s hD k hk⟩,
    fun k hk => ⟨_, rfl, rd_respData s hD k hk⟩⟩

/-! The expansion of `REQ` (R74, R143). -/

theorem decodeWord_reqSet (prm : Params) (sel : BitVec 4) (imm : Byte) (h : sel.toNat ≤ prm.pD) :
    decodeWord prm (packWord 0x4 sel imm) = .ok (.reqSet sel imm) := by
  simp [decodeWord, reqSelLegal, h]

/-- One `REQ.SET` word at a port at rest. -/
theorem step_reqSet (s : State) (sel : BitVec 4) (imm : Byte) (rest : List Event) (hs : s.inSpec)
    (hr : s.h.state.atRest) (hsel : sel.toNat ≤ s.cfg.pD) (hi : s.inputs = .word (packWord 0x4 sel imm) :: rest) :
    step s = .next (reply .accepted 0x00 (setRequest sel imm { s with inputs := rest })) := by
  rw [step_word s _ rest _ hs hi (decodeWord_reqSet s.cfg sel imm hsel)]
  have h := portOp_accepted { s with inputs := rest } (setRequest sel imm) hr
  rwa [← show reqSelLegal s.cfg sel = true from decide_eq_true hsel] at h

/-- The word of one data byte stores it at its index. -/
theorem step_requestData (s : State) (i : Nat) (imm : Byte) (rest : List Event) (hs : s.inSpec)
    (hr : s.h.state.atRest) (hk : i < s.cfg.pD)
    (hi : s.inputs = .word (packWord 0x4 (BitVec.ofNat 4 (i + 1)) imm) :: rest) :
    step s = .next { s with
      inputs := rest
      h := { s.h with reqData := s.h.reqData.set i imm }
      replies := s.replies ++ [⟨.accepted, 0x00⟩] } := by
  obtain ⟨-, h14, -⟩ := (legalParams_iff s.cfg).1 hs.1
  have hsel : (BitVec.ofNat 4 (i + 1)).toNat = i + 1 := Nat.mod_eq_of_lt (by omega)
  have hne : BitVec.ofNat 4 (i + 1) ≠ 0 := fun h => by
    rw [h] at hsel; cases hsel
  rw [step_reqSet s _ imm rest hs hr (by omega) hi, setRequest_data _ _ imm hne, hsel]
  rfl

/-- A run over the words of data bytes, whatever their indices, stores each at its index. -/
theorem run_requestData (f : Nat → Byte) (rest : List Event) (is : List Nat) : ∀ s : State, s.inSpec →
    s.h.state.atRest → (∀ i ∈ is, i < s.cfg.pD) →
    s.inputs = is.map (fun i => .word (packWord 0x4 (BitVec.ofNat 4 (i + 1)) (f i))) ++ rest →
    run is.length s = .next { s with
      inputs := rest
      h := { s.h with reqData := is.foldl (fun d i => d.set i (f i)) s.h.reqData }
      replies := s.replies ++ List.replicate is.length ⟨.accepted, 0x00⟩ } := by
  induction is with
  | nil =>
    intro s _ _ _ hi
    rw [← show s.inputs = rest from hi]
    simp
  | cons i is ih =>
    intro s hs hr hlt hi
    have hstep := step_requestData s i (f i) _ hs hr (hlt i List.mem_cons_self) hi
    have hmore (j : Nat) (hj : j ∈ is) : j < s.cfg.pD := hlt j (List.mem_cons_of_mem i hj)
    refine (run_next _ s _ hstep).trans ((ih _ (by exact hs) (by exact hr) (by exact hmore) rfl).trans ?_)
    simp [List.replicate_succ]

/-- Setting the first `n` elements one after the other. -/
theorem foldl_set_range (f : Nat → Byte) (l : List Byte) (n : Nat) (hn : n ≤ l.length) :
    (List.range n).foldl (fun d i => d.set i (f i)) l = (List.range n).map f ++ l.drop n := by
  induction n with
  | zero => simp
  | succ n ih =>
    rw [List.range_succ, List.foldl_append, ih (by omega), List.map_append, List.foldl_cons, List.foldl_nil,
      List.set_append_right _ _ (by simp), List.length_map, List.length_range, Nat.sub_self,
      List.drop_eq_getElem_cons hn, List.set_cons_zero]
    simp

/-- The data bytes of the expansion: those given, then zeros (R74). -/
theorem paddedData (data : List Byte) (n : Nat) (h : data.length ≤ n) :
    (List.range n).map (fun i => data.getD i 0) = data ++ List.replicate (n - data.length) 0x00 := by
  refine List.ext_getElem (by simp; omega) fun i hi _ => ?_
  rw [List.getElem_append]
  split
  · simp [*]
  · simp [List.getElem?_eq_none (show data.length ≤ i by omega)]

/-- Settles O23: the command word, then a run over the data words. -/
theorem requestExpansionLoadsPayload : Obligations.RequestExpansionLoadsPayload := by
  intro s cmd data rest hs hr hlen hdata hi
  obtain ⟨dataWords, hdw⟩ : ∃ ws : List Event, ws = (List.range s.cfg.pD).map (fun i =>
      .word (packWord 0x4 (BitVec.ofNat 4 (i + 1)) (data.getD i 0))) ++ rest := ⟨_, rfl⟩
  have hwords : s.inputs = .word (packWord 0x4 0 cmd) :: dataWords := by
    rw [hi, hdw, expandReq, List.map_cons, List.map_map, List.cons_append]; rfl
  have hcmd := step_reqSet s 0 cmd dataWords hs hr (Nat.zero_le _) hwords
  rw [setRequest_command] at hcmd
  have hload := run_requestData (fun i => data.getD i 0) rest (List.range s.cfg.pD)
    (reply .accepted 0x00 { s with inputs := dataWords, h := { s.h with reqCmd := cmd } }) hs hr
    (fun i => List.mem_range.1) hdw
  rw [List.length_range] at hload
  have hdataBytes : (List.range s.cfg.pD).foldl (fun d i => d.set i (data.getD i 0)) s.h.reqData
      = data ++ List.replicate (s.cfg.pD - data.length) 0x00 := by
    rw [foldl_set_range _ _ _ hlen.ge, paddedData data s.cfg.pD hdata, List.drop_of_length_le hlen.le, List.append_nil]
  rw [← hdataBytes, List.replicate_succ, List.append_cons]
  exact (run_next _ s _ hcmd).trans hload

end Sys2Proof.Proofs.ControlRegisters
end

section
/-! SUPPORT. Proofs of the statements on the registers, part 4: what the instances share, and that `P.OVERRUN` influences
nothing. -/

namespace Sys2Proof.Proofs.Separation

open Sys2Proof.Machine Sys2Proof.Laws Sys2Proof.Proofs.Instances Sys2Proof.Proofs.Invariants

/-! What a step of `H` leaves alone of `P`, and a step of `P` of `H` (R54). -/

/-- What a step of `H` leaves alone (R51, R114). -/
def HostLeavesAlone (s t : State) : Prop :=
  t.act = s.act ∧ t.replies = s.replies ∧ (s.h.state ≠ .sending → t.p = s.p)
    ∧ t.p = { s.p with state := t.p.state, rxb := t.p.rxb, rxn := t.p.rxn, overrun := t.p.overrun }

/-- What a step of `P` leaves alone. -/
def PeriphLeavesAlone (s t : State) : Prop :=
  t.h = s.h ∧ t.replies = s.replies

theorem fetchHost_leaves (s t : State) (h : runFetched (fetchHost s) = .next t) : HostLeavesAlone s t := by
  obtain ⟨-, hact, hreplies, -, hp⟩ := host_frame s t h
  rcases hp with hp | ⟨hsend, cs, b, hp⟩
  · exact ⟨hact, hreplies, fun _ => hp, by rw [hp]⟩
  · obtain ⟨st, rxb, rxn, o, hframe⟩ := receives_frame s.cfg (eventsOf s.cfg cs b) s.p
    exact ⟨hact, hreplies, fun hne => absurd hsend hne, by rw [hp, hframe]⟩

theorem fetchPeriph_leaves (s t : State) (h : runFetched (fetchPeriph s) = .next t) : PeriphLeavesAlone s t := by
  obtain ⟨-, hh, hreplies, -⟩ := periph_frame s t h
  exact ⟨hh, hreplies⟩

/-- With no input left a step is one of `H` or one of `P` (log 2). -/
theorem fetchFree_leaves (s t : State) (h : runFetched (fetchFree s) = .next t) :
    HostLeavesAlone s t ∨ PeriphLeavesAlone s t := by
  unfold fetchFree at h
  split at h
  · split at h
    · split at h
      · exact .inl (by simpa [HostLeavesAlone] using fetchHost_leaves _ t h)
      · exact .inr (by simpa [PeriphLeavesAlone] using fetchPeriph_leaves _ t h)
    · exact .inl (fetchHost_leaves s t h)
  · split at h
    · exact .inr (fetchPeriph_leaves s t h)
    · cases h; exact .inr ⟨rfl, rfl⟩

/-- The parameters are fixed for a run (R38). -/
theorem step_cfg {s t : State} (h : step s = .next t) : t.cfg = s.cfg := by
  obtain ⟨u, hu, hcfg, -, -⟩ := step_instances h
  exact hcfg.trans (sameButQueues_fields hu).1

/-- Settles O53: by the kind of the input, each kind through what it leaves alone. -/
theorem instancesShareNothing : Obligations.InstancesShareNothing := by
  intro s t h stepOfHost stepOfPeriph
  obtain ⟨hs, -⟩ := step_moves s t h
  refine ⟨step_cfg h, fun e rest hi => ?_, fun hi => ?_⟩
  · rw [step_input s e rest hs hi] at h
    refine ⟨?word, ?periph, ?host, ?resetHost, ?resetPeriph, ?powerOn⟩
    case word =>
      rintro ⟨cw, rfl⟩
      obtain ⟨-, hp, hact, hdraws, hcount, -⟩ := word_frame _ t cw h
      exact ⟨hp, hact, hdraws, hcount⟩
    case periph => rintro rfl; exact fetchPeriph_leaves { s with inputs := rest } t h
    case host => rintro rfl; exact fetchHost_leaves { s with inputs := rest } t h
    case resetHost => rintro rfl; cases h; exact ⟨rfl, rfl⟩
    case resetPeriph => rintro rfl; cases h; exact ⟨rfl, rfl⟩
    case powerOn => rintro rfl; cases h; rfl
  · rw [step_free s hs hi] at h
    exact fetchFree_leaves s t h

/-! `P.OVERRUN` forgotten before a receive event or after it (R35). -/

/-- The registers of `P` with OVERRUN cleared: `forgetOverrun` on `P` alone. -/
def clearOverrun (p : PeriphRegs) : PeriphRegs :=
  { p with overrun := false }

theorem storeByte_clearOverrun (prm : Params) (p : PeriphRegs) (b : Byte) :
    storeByte prm (clearOverrun p) b = clearOverrun (storeByte prm p b) := by
  unfold storeByte; rw [apply_ite clearOverrun]; rfl

theorem storeBytes_clearOverrun (prm : Params) (bs : List Byte) : ∀ p : PeriphRegs,
    storeBytes prm (clearOverrun p) bs = clearOverrun (storeBytes prm p bs) := by
  induction bs with
  | nil => intro p; rfl
  | cons b bs ih => intro p; rw [storeBytes_cons, storeByte_clearOverrun, ih, storeBytes_cons]

theorem endCheck_clearOverrun (prm : Params) (last : Bool) (p : PeriphRegs) :
    endCheck prm last (clearOverrun p) = clearOverrun (endCheck prm last p) := by
  unfold endCheck; rw [apply_ite clearOverrun]; rfl

/-- A receive event does not read OVERRUN; it may set it. -/
theorem receive_clearOverrun (prm : Params) (p : PeriphRegs) (bs : List Byte) (last : Bool) :
    clearOverrun (receive prm (clearOverrun p) bs last) = clearOverrun (receive prm p bs last) := by
  have go (q : PeriphRegs) (hq : q.state = .receiving) :
      receive prm (clearOverrun q) bs last = clearOverrun (receive prm q bs last) := by
    have hq' : (clearOverrun q).state = .receiving := hq
    simp only [receive, hq, hq', storeBytes_clearOverrun, endCheck_clearOverrun]
  cases hs : p.state with
  | idle =>
    rw [receive_start prm p bs last hs, receive_start prm (clearOverrun p) bs last hs]
    have hstart := congrArg clearOverrun (go { p with rxn := 0, state := .receiving } rfl)
    exact hstart
  | receiving => rw [go p hs]; rfl
  | dispatching => rw [receive_busy prm p bs last (.inl hs), receive_busy prm (clearOverrun p) bs last (.inl hs)]; rfl
  | responding => rw [receive_busy prm p bs last (.inr hs), receive_busy prm (clearOverrun p) bs last (.inr hs)]; rfl

theorem receiveAll_clearOverrun (prm : Params) (es : List (List Byte × Bool)) : ∀ p : PeriphRegs,
    clearOverrun (receiveAll prm (clearOverrun p) es) = clearOverrun (receiveAll prm p es) := by
  induction es with
  | nil => intro p; rfl
  | cons e es ih =>
    intro p
    calc clearOverrun (receiveAll prm (receive prm (clearOverrun p) e.1 e.2) es)
        = clearOverrun (receiveAll prm (clearOverrun (receive prm (clearOverrun p) e.1 e.2)) es) := (ih _).symm
      _ = clearOverrun (receiveAll prm (clearOverrun (receive prm p e.1 e.2)) es) := by rw [receive_clearOverrun]
      _ = clearOverrun (receiveAll prm (receive prm p e.1 e.2) es) := ih _

theorem deliver_forgetOverrun (cuts : List Nat) (bytes : List Byte) (s : State) :
    forgetOverrun (deliver cuts bytes (forgetOverrun s)) = forgetOverrun (deliver cuts bytes s) := by
  have hp := receiveAll_clearOverrun s.cfg (eventsOf s.cfg cuts bytes) s.p
  calc forgetOverrun (deliver cuts bytes (forgetOverrun s))
      = { s with
          p := clearOverrun (receiveAll s.cfg (clearOverrun s.p) (eventsOf s.cfg cuts bytes))
          link := linkOf s.p (clearOverrun (receiveAll s.cfg (clearOverrun s.p) (eventsOf s.cfg cuts bytes))) } := rfl
    _ = forgetOverrun (deliver cuts bytes s) := by rw [hp]; rfl

/-! The draws, the actuator and the bus do not read OVERRUN. -/

/-- `forgetOverrun` on the state that comes with an answer of `BUS`, of `ACT` or of the environment. -/
def forgetBeside {α : Type} (r : α × State) : α × State :=
  (r.1, forgetOverrun r.2)

theorem takeDraw_forgetOverrun (s : State) : takeDraw (forgetOverrun s) = forgetBeside (takeDraw s) := by
  cases hd : s.draws with
  | nil => rw [takeDraw_free s hd, takeDraw_free (forgetOverrun s) hd]; rfl
  | cons d ds => rw [takeDraw_fixed s d ds hd, takeDraw_fixed (forgetOverrun s) d ds hd]; rfl

theorem invoke_forgetOverrun (c : Cmd) (d : List Byte) (s : State) :
    invoke c d (forgetOverrun s) = forgetBeside (invoke c d s) := by
  unfold invoke
  rw [takeDraw_forgetOverrun]
  cases hact : s.cfg.actuator <;> simp [forgetOverrun, forgetBeside, hact]

theorem busRead_forgetOverrun (a : BitVec 7) (n : Nat) (s : State) :
    busRead a n (forgetOverrun s) = forgetBeside (busRead a n s) := by
  unfold busRead
  rw [takeDraw_forgetOverrun, apply_ite forgetBeside, apply_ite forgetBeside, apply_ite forgetBeside]
  rfl

theorem noisyWrite_forgetOverrun (d : Draw) (s : State) :
    forgetBeside (noisyWrite d (forgetOverrun s)) = forgetBeside (noisyWrite d s) := by
  unfold noisyWrite
  cases d.delivers with
  | false => rfl
  | true => exact Prod.ext rfl (deliver_forgetOverrun d.cuts d.bytes s)

/-- The outcome of a write is the same, and what it leaves is the same but for OVERRUN. -/
theorem busWrite_forgetOverrun (a : BitVec 7) (bs : List Byte) (s : State) :
    forgetBeside (busWrite a bs (forgetOverrun s)) = forgetBeside (busWrite a bs s) := by
  unfold busWrite
  simp only [takeDraw_forgetOverrun, apply_ite forgetBeside]
  refine ite_congr rfl (fun _ => noisyWrite_forgetOverrun _ _) fun _ => ite_congr rfl (fun _ => rfl) fun _ =>
    ite_congr rfl (fun _ => ?_) fun _ => ?_
  · exact Prod.ext rfl (deliver_forgetOverrun _ bs (takeDraw s).2)
  · exact Prod.ext rfl (deliver_forgetOverrun [] bs s)

/-! No instruction reads OVERRUN or sets it. -/

theorem portOp_forgetOverrun (legal : Bool) (f : State → State) (s : State)
    (hf : f (forgetOverrun s) = forgetOverrun (f s)) :
    portOp legal f (forgetOverrun s) = forgetOverrunResult (portOp legal f s) := by
  unfold portOp
  rw [hf, apply_ite forgetOverrunResult, apply_ite forgetOverrunResult]
  rfl

theorem portRead_forgetOverrun (legal : Bool) (v : Byte) (s : State) :
    portRead legal v (forgetOverrun s) = forgetOverrunResult (portRead legal v s) := by
  cases legal <;> rfl

theorem setRequest_forgetOverrun (sel : BitVec 4) (imm : Byte) (s : State) :
    setRequest sel imm (forgetOverrun s) = forgetOverrun (setRequest sel imm s) := by
  unfold setRequest; rw [apply_ite forgetOverrun]; rfl

theorem setConfig_forgetOverrun (sel : BitVec 4) (imm : Byte) (s : State) :
    setConfig sel imm (forgetOverrun s) = forgetOverrun (setConfig sel imm s) := by
  unfold setConfig; split <;> rfl

theorem decodeReadBuffer_forgetOverrun (s : State) :
    decodeReadBuffer (forgetOverrun s) = forgetOverrun (decodeReadBuffer s) := by
  have hread : decodeFrame (forgetOverrun s).cfg .resp (readBytes (forgetOverrun s).h)
      = decodeFrame s.cfg .resp (readBytes s.h) := rfl
  unfold decodeReadBuffer
  rw [hread]
  cases decodeFrame s.cfg .resp (readBytes s.h) <;> rfl

theorem actOn_forgetOverrun (c : Cmd) (d : List Byte) (s : State) :
    actOn c d (forgetOverrun s) = forgetOverrun (actOn c d s) := by
  unfold actOn; rw [invoke_forgetOverrun]; rfl

theorem dispatchCommand_forgetOverrun (c : Cmd) (d : List Byte) (s : State) :
    dispatchCommand c d (forgetOverrun s) = forgetOverrun (dispatchCommand c d s) := by
  unfold dispatchCommand
  rw [actOn_forgetOverrun, apply_ite forgetOverrun, apply_ite forgetOverrun, apply_ite forgetOverrun]
  rfl

theorem validateStatus_forgetOverrun (st : Status) (d : List Byte) (s : State) :
    validateStatus st d (forgetOverrun s) = forgetOverrun (validateStatus st d s) := by
  unfold validateStatus
  rw [apply_ite forgetOverrun, apply_ite forgetOverrun, apply_ite forgetOverrun]
  rfl

theorem exec_forgetOverrun (i : Instr) (s : State) : exec i (forgetOverrun s) = forgetOverrunResult (exec i s) := by
  have request (c : Cmd) (d : List Byte) :
      exec (c.instr d) (forgetOverrun s) = forgetOverrunResult (exec (c.instr d) s) := by
    rw [exec_cmd, exec_cmd, dispatchCommand_forgetOverrun]; rfl
  have response (st : Status) (d : List Byte) :
      exec (st.instr d) (forgetOverrun s) = forgetOverrunResult (exec (st.instr d) s) := by
    rw [exec_status, exec_status, validateStatus_forgetOverrun]; rfl
  cases i with
  | crcInit | crcUpd _ | crcFin =>
    simp only [exec, execCrcInit, execCrcUpd, execCrcFin]
    exact portOp_forgetOverrun true _ s rfl
  | enc | txn | ack => exact portOp_forgetOverrun true _ s rfl
  | dec => exact portOp_forgetOverrun true _ s (decodeReadBuffer_forgetOverrun s)
  | reqSet sel imm => exact portOp_forgetOverrun _ _ s (setRequest_forgetOverrun sel imm s)
  | cfgSet sel imm => exact portOp_forgetOverrun _ _ s (setConfig_forgetOverrun sel imm s)
  | rd reg => exact portRead_forgetOverrun _ _ s
  | ping d => exact request .ping d
  | stop d => exact request .stop d
  | setSpeed d => exact request .setSpeed d
  | getStatus d => exact request .getStatus d
  | ok d => exact response .ok d
  | errorBadCrc d => exact response .errorBadCrc d
  | errorUnknownCommand d => exact response .errorUnknownCommand d
  | errorBusy d => exact response .errorBusy d
  | errorOutOfRange d => exact response .errorOutOfRange d
  | errorDomain d => exact response .errorDomain d
  | errorBadLength d => exact response .errorBadLength d

/-! The fetch does not read OVERRUN, and only the receive events of SEND may set it. -/

/-- What was fetched, with OVERRUN cleared in its state. -/
def forgetFetched : Fetched → Fetched
  | .instr i t => .instr i (forgetOverrun t)
  | .effect t => .effect (forgetOverrun t)
  | .refusal r => .refusal r

theorem runFetched_forgetFetched (f : Fetched) : runFetched (forgetFetched f) = forgetOverrunResult (runFetched f) := by
  cases f with
  | instr i t => exact exec_forgetOverrun i t
  | effect t => rfl
  | refusal r => rfl

/-- The two fetches give the same but for OVERRUN. -/
def Blind (fetchIt : State → Fetched) : Prop :=
  ∀ s, forgetFetched (fetchIt (forgetOverrun s)) = forgetFetched (fetchIt s)

theorem fetchWord_blind (cw : ControlWord) : Blind (fetchWord cw) := by
  intro s
  have hcfg : (forgetOverrun s).cfg = s.cfg := rfl
  unfold fetchWord
  rw [hcfg]
  cases decodeWord s.cfg cw <;> rfl

theorem sendStep_forgetOverrun (s : State) : forgetOverrun (sendStep (forgetOverrun s)) = forgetOverrun (sendStep s) := by
  have after (w : Option BusError × State) :
      forgetOverrun (afterWrite w.1 w.2) = afterWrite (forgetBeside w).1 (forgetBeside w).2 := by
    obtain ⟨r, t⟩ := w
    cases r <;> rfl
  have hwrite := busWrite_forgetOverrun s.h.periphAddr s.h.txf s
  calc forgetOverrun (sendStep (forgetOverrun s))
      = afterWrite (forgetBeside (busWrite s.h.periphAddr s.h.txf (forgetOverrun s))).1
          (forgetBeside (busWrite s.h.periphAddr s.h.txf (forgetOverrun s))).2 := after _
    _ = forgetOverrun (sendStep s) := by rw [hwrite, ← after]; rfl

theorem readStep_forgetOverrun (s : State) : readStep (forgetOverrun s) = forgetFetched (readStep s) := by
  have after (w : Except BusError (List Byte) × State) :
      afterRead (forgetBeside w).1 (forgetBeside w).2 = forgetOverrun (afterRead w.1 w.2) := by
    obtain ⟨r, t⟩ := w
    cases r <;> rfl
  rw [Scope.readStep_eq, Scope.readStep_eq, forgetFetched, ← after, ← busRead_forgetOverrun]
  rfl

theorem validateStep_forgetOverrun (s : State) : validateStep (forgetOverrun s) = forgetFetched (validateStep s) := by
  have hread : decodeResponse (forgetOverrun s).cfg (readBytes (forgetOverrun s).h)
      = decodeResponse s.cfg (readBytes s.h) := rfl
  unfold validateStep
  rw [hread]
  cases decodeResponse s.cfg (readBytes s.h) <;> rfl

theorem dispatchStep_forgetOverrun (s : State) : dispatchStep (forgetOverrun s) = forgetFetched (dispatchStep s) := by
  have hreceived : decodeReceived (forgetOverrun s).cfg (forgetOverrun s).p = decodeReceived s.cfg s.p := rfl
  unfold dispatchStep
  rw [hreceived]
  cases decodeReceived s.cfg s.p <;> rfl

theorem forgetFetched_idem (f : Fetched) : forgetFetched (forgetFetched f) = forgetFetched f := by cases f <;> rfl

theorem fetchHost_blind : Blind fetchHost := by
  intro s
  have hstate : (forgetOverrun s).h.state = s.h.state := rfl
  unfold fetchHost
  rw [hstate]
  cases s.h.state with
  | sending => exact congrArg Fetched.effect (sendStep_forgetOverrun s)
  | reading =>
    have henabled : readEnabled (forgetOverrun s) = readEnabled s := rfl
    simp only [henabled, readStep_forgetOverrun, apply_ite forgetFetched, forgetFetched_idem]
    rfl
  | validating => simp only [validateStep_forgetOverrun, forgetFetched_idem]
  | waiting | idle | done | failed => rfl

theorem fetchPeriph_blind : Blind fetchPeriph := by
  intro s
  have hstate : (forgetOverrun s).p.state = s.p.state := rfl
  unfold fetchPeriph
  rw [hstate]
  cases s.p.state with
  | dispatching => simp only [dispatchStep_forgetOverrun, forgetFetched_idem]
  | responding | idle | receiving => rfl

theorem fetchFree_blind : Blind fetchFree := by
  intro s
  unfold fetchFree
  rw [takeDraw_forgetOverrun]
  simp only [apply_ite forgetFetched]
  exact ite_congr rfl
    (fun _ => ite_congr rfl
      (fun _ => ite_congr rfl (fun _ => fetchHost_blind (takeDraw s).2) fun _ => fetchPeriph_blind (takeDraw s).2)
      fun _ => fetchHost_blind s)
    fun _ => ite_congr rfl (fun _ => fetchPeriph_blind s) fun _ => rfl

theorem fetchEvent_blind (e : Event) : Blind (fetchEvent e) := by
  intro s
  cases e with
  | word cw => exact fetchWord_blind cw s
  | host => exact fetchHost_blind s
  | periph => exact fetchPeriph_blind s
  | resetHost | resetPeriph | powerOn => rfl

theorem fetch_blind : Blind fetch := by
  intro s
  have hinputs : (forgetOverrun s).inputs = s.inputs := rfl
  unfold fetch
  simp only [apply_ite forgetFetched]
  refine ite_congr rfl (fun _ => rfl) fun _ => ite_congr rfl (fun _ => rfl) fun _ => ?_
  rw [hinputs]
  cases s.inputs with
  | nil => exact fetchFree_blind s
  | cons e rest => exact fetchEvent_blind e { s with inputs := rest }

/-- Settles O54: the fetch is blind to OVERRUN, and so is running what it fetched. -/
theorem overrunIsInvisible : Obligations.OverrunIsInvisible := by
  intro s
  rw [step_eq, step_eq, ← runFetched_forgetFetched, ← runFetched_forgetFetched, fetch_blind]

end Sys2Proof.Proofs.Separation
end

section
/-! SUPPORT. Proofs of the statements on memory and the bus, part 1: the fields of a frame. -/

namespace Sys2Proof.Proofs.Fields

open Sys2Proof.Machine

/-! The value of big-endian bytes, and the bytes of a value (R46). -/

theorem foldl_valueBE (bs : List Byte) (acc : Nat) :
    bs.foldl (fun acc b => acc * 256 + b.toNat) acc = acc * 256 ^ bs.length + valueBE bs := by
  induction bs generalizing acc with
  | nil => simp [valueBE]
  | cons b bs ih =>
    rw [valueBE, List.foldl_cons, List.foldl_cons, ih, ih (0 * 256 + b.toNat), List.length_cons, pow_succ]
    ring

theorem valueBE_cons (b : Byte) (bs : List Byte) : valueBE (b :: bs) = b.toNat * 256 ^ bs.length + valueBE bs := by
  rw [valueBE, List.foldl_cons, foldl_valueBE, Nat.zero_mul, Nat.zero_add]

/-- R46's sum: byte `j` of `w` weighs 256 to the power `w - 1 - j`. -/
theorem valueBE_eq_sum (bs : List Byte) :
    valueBE bs = ((List.range bs.length).map fun j => (bs.getD j 0).toNat * 256 ^ (bs.length - 1 - j)).sum := by
  induction bs with
  | nil => rfl
  | cons b bs ih =>
    rw [valueBE_cons, ih, List.length_cons, List.range_succ_eq_map, List.map_cons, List.sum_cons, List.map_map]
    simp only [Function.comp_def, List.getD_cons_zero, List.getD_cons_succ, Nat.add_sub_cancel, Nat.sub_zero]
    simp only [Nat.sub_sub, Nat.add_comm 1, Nat.succ_eq_add_one]

@[simp] theorem bytesBE_length (n v : Nat) : (bytesBE n v).length = n := by
  induction n with
  | zero => rfl
  | succ n ih => rw [bytesBE, List.length_cons, ih]

theorem valueBE_bytesBE (n v : Nat) : valueBE (bytesBE n v) = v % 256 ^ n := by
  induction n with
  | zero => rw [Nat.pow_zero, Nat.mod_one]; rfl
  | succ n ih =>
    rw [bytesBE, valueBE_cons, bytesBE_length, ih, BitVec.toNat_ofNat, pow_succ 256 n,
      Nat.mod_mul (a := 256 ^ n) (b := 256), Nat.mul_comm, Nat.add_comm]

/-! The field of a frame, read and written. -/

theorem fieldBytes_getD (frame : List Byte) (o w j : Nat) (hj : j < w) :
    ((frame.drop o).take w).getD j 0 = frame.getD (o + j) 0 := by
  simp [List.getD_eq_getElem?_getD, hj]

theorem fieldValue_eq_sum (frame : List Byte) (o w : Nat) (h : o + w ≤ frame.length) :
    fieldValue frame o w = ((List.range w).map fun j => (frame.getD (o + j) 0).toNat * 256 ^ (w - 1 - j)).sum := by
  have hlen : ((frame.drop o).take w).length = w := by simp; omega
  rw [fieldValue, valueBE_eq_sum, hlen]
  refine congrArg List.sum (List.map_congr_left fun j hj => ?_)
  rw [fieldBytes_getD frame o w j (List.mem_range.1 hj)]

theorem fieldWrite_length (frame : List Byte) (o w v : Nat) (h : o + w ≤ frame.length) :
    (fieldWrite frame o w v).length = frame.length := by
  simp [fieldWrite]; omega

/-- The bytes of the field after a write are those of the value. -/
theorem fieldWrite_field (frame : List Byte) (o w v : Nat) (h : o + w ≤ frame.length) :
    ((fieldWrite frame o w v).drop o).take w = bytesBE w v := by
  have hhead : (frame.take o).length = o := by simp; omega
  rw [fieldWrite, List.append_assoc, List.drop_left' hhead, List.take_left' (bytesBE_length w v)]

/-- A write changes no byte outside the field. -/
theorem fieldWrite_outside (frame : List Byte) (o w v k : Nat) (h : o + w ≤ frame.length) (hk : k < o ∨ o + w ≤ k) :
    (fieldWrite frame o w v)[k]? = frame[k]? := by
  have hhead : (frame.take o).length = o := by simp; omega
  rcases hk with hk | hk
  · rw [fieldWrite, List.append_assoc, List.getElem?_append_left (by omega), List.getElem?_take_of_lt hk]
  · have hfront : (frame.take o ++ bytesBE w v).length = o + w := by rw [List.length_append, hhead, bytesBE_length]
    rw [fieldWrite, List.getElem?_append_right (by omega), hfront, List.getElem?_drop, Nat.add_sub_cancel' hk]

/-- Settles O8: the value of the field's bytes, and the bytes that a write leaves in the field and outside it. -/
theorem fieldWriteReadsBack : Obligations.FieldWriteReadsBack := by
  intro frame o w h
  refine ⟨fieldValue_eq_sum frame o w h, fun v hv => ⟨?_, fieldWrite_length frame o w v h,
    fun k hk => fieldWrite_outside frame o w v k h hk⟩⟩
  rw [fieldValue, fieldWrite_field frame o w v h, valueBE_bytesBE, Nat.mod_eq_of_lt hv]

end Sys2Proof.Proofs.Fields
end

section
/-! SUPPORT. Proofs of the statements on memory and the bus, part 2: one write at `P`, and the steps of `H` that use the
bus. -/

namespace Sys2Proof.Proofs.BusSteps

open Sys2Proof.Machine Sys2Proof.Laws Sys2Proof.Proofs.Scope Sys2Proof.Proofs.Instances Sys2Proof.Proofs.Invariants

/-! A write that fits, in any chunks (R52, R115 to R119). -/

/-- The buffer of a `P` that has stored these bytes after those it held. -/
def storedAfter (p : PeriphRegs) (bytes : List Byte) : List Byte :=
  p.rxb.take p.rxn ++ bytes ++ p.rxb.drop (p.rxn + bytes.length)

/-- A `P` in RECEIVING that has stored these bytes. -/
def gathered (p : PeriphRegs) (bytes : List Byte) : PeriphRegs :=
  { p with rxb := storedAfter p bytes, rxn := p.rxn + bytes.length }

/-- Storing bytes and then more of them stores all of them. -/
theorem gathered_gathered (p : PeriphRegs) (b₁ b₂ : List Byte) (h : p.rxn ≤ p.rxb.length) :
    gathered (gathered p b₁) b₂ = gathered p (b₁ ++ b₂) := by
  have hfront : (p.rxb.take p.rxn ++ b₁).length = p.rxn + b₁.length := by
    rw [List.length_append, List.length_take, Nat.min_eq_left h]
  have htake : (storedAfter p b₁).take (p.rxn + b₁.length) = p.rxb.take p.rxn ++ b₁ := List.take_left' hfront
  have hdrop : (storedAfter p b₁).drop (p.rxn + b₁.length + b₂.length)
      = p.rxb.drop (p.rxn + (b₁ ++ b₂).length) := by
    rw [← List.drop_drop, storedAfter, List.drop_left' hfront, List.drop_drop, List.length_append, Nat.add_assoc]
  have hbuffer : storedAfter (gathered p b₁) b₂ = storedAfter p (b₁ ++ b₂) := by
    rw [storedAfter, gathered, htake, hdrop, storedAfter, List.append_assoc (p.rxb.take p.rxn)]
  rw [gathered, hbuffer, gathered, gathered, List.length_append, Nat.add_assoc]

/-- A chunk that fits, under partial delivery: it is stored, and the frame is complete when no byte is missing. -/
theorem receive_fitting (prm : Params) (p : PeriphRegs) (bytes : List Byte) (last : Bool)
    (hpd : prm.partialDelivery = true) (hs : p.state = .receiving) (hb : p.rxb.length = prm.pL)
    (hfit : p.rxn + bytes.length ≤ prm.pL) :
    receive prm p bytes last = { gathered p bytes with
      state := if prm.pL ≤ p.rxn + bytes.length then .dispatching else .receiving } := by
  have hall : bytes.take (prm.pL - p.rxn) = bytes := List.take_of_length_le (by omega)
  have hcount : min (p.rxn + bytes.length) (prm.pL + 1) = p.rxn + bytes.length := by omega
  rw [receive_continue prm p bytes last hs hb (by omega), hall, hcount]
  simp only [hpd, if_true]
  rfl

/-- A write that fits, whatever its chunks: its bytes are stored; `P` stays in RECEIVING while bytes are missing, and
chunks after the completing one can only set OVERRUN. -/
theorem receiveAll_fitting (prm : Params) (hpd : prm.partialDelivery = true) (cuts : List Nat) :
    ∀ (p : PeriphRegs) (bytes : List Byte), p.state = .receiving → p.rxb.length = prm.pL →
      p.rxn + bytes.length ≤ prm.pL →
      ∃ o, (p.rxn + bytes.length < prm.pL → o = false)
        ∧ receiveAll prm p (chunksOf cuts bytes) = { gathered p bytes with
            state := if prm.pL ≤ p.rxn + bytes.length then .dispatching else .receiving
            overrun := p.overrun || o } := by
  induction cuts with
  | nil =>
    intro p bytes hs hb hfit
    refine ⟨false, fun _ => rfl, ?_⟩
    rw [chunksOf, receiveAll_cons, receiveAll_nil, receive_fitting prm p bytes true hpd hs hb hfit, Bool.or_false]
    rfl
  | cons n cuts ih =>
    intro p bytes hs hb hfit
    have hsplit : (bytes.take n).length + (bytes.drop n).length = bytes.length := by
      rw [← List.length_append, List.take_append_drop]
    rw [chunksOf, receiveAll_cons, receive_fitting prm p (bytes.take n) false hpd hs hb (by omega)]
    by_cases hfull : prm.pL ≤ p.rxn + (bytes.take n).length
    · have hall : bytes.take n = bytes := by
        rw [← List.take_append_drop n bytes, List.eq_nil_of_length_eq_zero (l := bytes.drop n) (by omega)]; simp
      rw [if_pos hfull]
      obtain ⟨o, ho⟩ := receives_busy prm (chunksOf cuts (bytes.drop n))
        { gathered p (bytes.take n) with state := .dispatching } (.inl rfl)
      refine ⟨o, fun hlt => absurd hlt (by omega), ?_⟩
      rw [ho, hall, if_pos (by omega)]
      rfl
    · have hlen : (gathered p (bytes.take n)).rxb.length = prm.pL := by
        simp only [gathered, storedAfter, List.length_append, List.length_take, List.length_drop] at *; omega
      obtain ⟨o, hmissing, ho⟩ := ih (gathered p (bytes.take n)) (bytes.drop n) hs hlen (by simp only [gathered]; omega)
      have hcount : (gathered p (bytes.take n)).rxn + (bytes.drop n).length = p.rxn + bytes.length := by
        simp only [gathered]; omega
      have hstay : { gathered p (bytes.take n) with state := .receiving } = gathered p (bytes.take n) := by
        rw [← hs]; rfl
      rw [hcount] at hmissing ho
      refine ⟨o, hmissing, ?_⟩
      rw [if_neg hfull, hstay, ho, gathered_gathered p _ _ (by omega), List.take_append_drop]
      rfl

/-- A listening `P` at its first receive event: in IDLE it starts a frame, in RECEIVING it continues one (R115). -/
def begun (p : PeriphRegs) : PeriphRegs :=
  { p with state := .receiving, rxn := if p.state = .idle then 0 else p.rxn }

theorem receiveAll_begun (prm : Params) (p : PeriphRegs) (es : List (List Byte × Bool))
    (hs : p.state = .idle ∨ p.state = .receiving) (hne : es ≠ []) :
    receiveAll prm p es = receiveAll prm (begun p) es := by
  rcases hs with hs | hs
  · obtain ⟨e, es, rfl⟩ := List.exists_cons_of_ne_nil hne
    rw [receiveAll_cons, receive_start prm p e.1 e.2 hs, receiveAll_cons, begun, if_pos hs]
  · rw [begun, if_neg (by simp [hs]), ← hs]

/-- Settles O41: a write that fits is gathered from the state in which the first chunk is handled. -/
theorem splitWriteIsReceivedWhole : Obligations.SplitWriteIsReceivedWhole := by
  intro s cuts bytes hpd hs hb held hheld stored
  have hevents : eventsOf s.cfg cuts bytes = chunksOf cuts bytes := by rw [eventsOf, if_pos hpd]
  have hbegun : (deliver cuts bytes s).p = receiveAll s.cfg (begun s.p) (chunksOf cuts bytes) := by
    rw [deliver_p, receiveAll_begun s.cfg s.p _ hs (eventsOf_ne_nil _ _ _), hevents]
  have fitting (hfit : held + bytes.length ≤ s.cfg.pL) :=
    receiveAll_fitting s.cfg hpd cuts (begun s.p) bytes rfl hb hfit
  have hcount : (begun s.p).rxn = held := rfl
  rw [hcount] at fitting
  refine ⟨fun hlt => ?_, fun heq => ?_⟩
  · obtain ⟨o, hmissing, hp⟩ := fitting hlt.le
    rw [hbegun, hp, hmissing hlt, if_neg (by omega), Bool.or_false]
    rfl
  · obtain ⟨o, -, hp⟩ := fitting heq.le
    exact ⟨o, by rw [hbegun, hp, if_pos heq.ge, ← heq]; rfl⟩

/-! The bus primitives, case by case (R52, R53). -/

theorem busWrite_wrongAddress (s : State) (a : BitVec 7) (bs : List Byte) (hn : s.cfg.busNoise = false)
    (ha : a ≠ s.p.ownAddr) : busWrite a bs s = (some .addressNack, s) := by
  simp [busWrite, hn, ha]

theorem busWrite_whole (s : State) (bs : List Byte) (hn : s.cfg.busNoise = false)
    (hpd : s.cfg.partialDelivery = false) : busWrite s.p.ownAddr bs s = (none, deliver [] bs s) := by
  simp [busWrite, hn, hpd]

theorem busWrite_chunks (s : State) (bs : List Byte) (hn : s.cfg.busNoise = false)
    (hpd : s.cfg.partialDelivery = true) :
    busWrite s.p.ownAddr bs s = (none, deliver (takeDraw s).1.cuts bs (takeDraw s).2) := by
  simp [busWrite, hn, hpd]

/-- A clean write to the right address delivers the frame; only partial delivery uses a draw. -/
theorem busWrite_clean (s : State) (bs : List Byte) (hn : s.cfg.busNoise = false) :
    ∃ cuts ds n, busWrite s.p.ownAddr bs s = (none, deliver cuts bs { s with draws := ds, drawCount := n })
      ∧ (s.cfg.partialDelivery = false → ds = s.draws ∧ n = s.drawCount) := by
  cases hpd : s.cfg.partialDelivery with
  | false => exact ⟨[], s.draws, s.drawCount, busWrite_whole s bs hn hpd, fun _ => ⟨rfl, rfl⟩⟩
  | true =>
    have hu := takeDraw_same s
    unfold SameButDraws at hu
    exact ⟨(takeDraw s).1.cuts, (takeDraw s).2.draws, (takeDraw s).2.drawCount,
      by rw [busWrite_chunks s bs hn hpd, ← hu], fun h => absurd h (by decide)⟩

theorem busWrite_noisy (s : State) (a : BitVec 7) (bs : List Byte) (hn : s.cfg.busNoise = true) :
    busWrite a bs s = noisyWrite (takeDraw s).1 (takeDraw s).2 := by
  simp [busWrite, hn]

theorem busRead_wrongAddress (s : State) (a : BitVec 7) (n : Nat) (hn : s.cfg.busNoise = false)
    (ha : a ≠ s.p.ownAddr) : busRead a n s = (.error .addressNack, s) := by
  simp [busRead, hn, ha]

theorem busRead_settled (s : State) (n : Nat) (hn : s.cfg.busNoise = false) (hs : settled s.p = true) :
    busRead s.p.ownAddr n s = (.ok s.p.txb, s) := by
  simp [busRead, hn, hs]

/-- A read is a draw on a noisy bus, and where the addressed `P` has no settled response. -/
theorem busRead_drawn (s : State) (a : BitVec 7) (n : Nat)
    (h : s.cfg.busNoise = true ∨ (a = s.p.ownAddr ∧ settled s.p = false)) :
    busRead a n s = (drawnRead n (takeDraw s).1, (takeDraw s).2) := by
  rcases h with hn | ⟨rfl, hs⟩
  · simp [busRead, hn]
  · simp [busRead, hs]

theorem periphListening_iff (p : PeriphRegs) : periphListening p = true ↔ p.state = .idle ∨ p.state = .receiving := by
  cases hs : p.state <;> simp [periphListening, hs]

theorem settled_of_listening (p : PeriphRegs) (hv : p.txbValid = true) (hs : p.state = .idle ∨ p.state = .receiving) :
    settled p = true := by
  rw [settled, hv, (periphListening_iff p).2 hs]; rfl

theorem not_settled (p : PeriphRegs)
    (h : p.txbValid = false ∨ p.state = .dispatching ∨ p.state = .responding) : settled p = false := by
  rcases h with h | h | h <;> simp [settled, periphListening, h]

/-! The step of `H` in each state that uses the bus, and in WAITING. -/

section
variable {s : State} {rest : List Event} (h : s.inSpec) (hi : s.inputs = .host :: rest)
include h hi

theorem step_send (hs : s.h.state = .sending) : step s = .next (sendStep { s with inputs := rest }) := by
  rw [step_input s .host rest h hi]; simp [fetchEvent, fetchHost, hs, runFetched]

theorem step_wait (hs : s.h.state = .waiting) : step s = .next (waitStep { s with inputs := rest }) := by
  rw [step_input s .host rest h hi]; simp [fetchEvent, fetchHost, hs, runFetched]

/-- The READ step where R57 enables it: what it makes of the outcome of its bus read. -/
theorem step_read (hs : s.h.state = .reading) (he : readEnabled s = true)
    (r : Except BusError (List Byte)) (u : State)
    (hr : busRead s.h.periphAddr s.cfg.pL { s with inputs := rest } = (r, u)) : step s = .next (afterRead r u) := by
  have he' : readEnabled { s with inputs := rest } = true := he
  rw [step_input s .host rest h hi]
  simp [fetchEvent, fetchHost, hs, he', readStep_eq, runFetched, hr]

theorem step_read_held (hs : s.h.state = .reading) (he : readEnabled s = false) :
    step s = .next { s with inputs := rest } := by
  have he' : readEnabled { s with inputs := rest } = false := he
  rw [step_input s .host rest h hi]; simp [fetchEvent, fetchHost, hs, he', runFetched]

end

theorem readEnabled_of_readReady {s : State} (h : s.readReady) : readEnabled s = true := by
  rcases h with h | ⟨-, hl, hs⟩
  · simp [readEnabled, h]
  · simp [readEnabled, hl, (periphListening_iff s.p).2 hs]

theorem not_readEnabled {s : State} (hd : s.cfg.delaySufficient = true)
    (h : s.link = .owed ∨ s.p.state = .dispatching ∨ s.p.state = .responding) : readEnabled s = false := by
  rcases h with h | h | h <;> simp [readEnabled, periphListening, hd, h]

/-- Settles O36. -/
theorem waitStepOrdersNothing : Obligations.WaitStepOrdersNothing :=
  fun _ _ h hi hs => step_wait h hi hs

/-- Settles O39: R57 does not enable the READ step. -/
theorem sufficientDelayHoldsBackTheRead : Obligations.SufficientDelayHoldsBackTheRead :=
  fun _ _ h hi hs ⟨hd, _⟩ howed => step_read_held h hi hs (not_readEnabled hd howed)

/-! The SEND step (R133). -/

/-- A write that gives an idle `P` exactly one frame leaves it DISPATCHING, with the response owed; only chunks after
the completing one set OVERRUN. -/
theorem deliver_frame_to_idle (s : State) (cuts : List Nat) (frame : List Byte) (hs : s.p.state = .idle)
    (hlen : frame.length = s.cfg.pL) (hb : s.p.rxb.length = s.cfg.pL) :
    ∃ o, deliver cuts frame s = { s with
        p := { s.p with rxb := frame, rxn := s.cfg.pL, state := .dispatching, overrun := s.p.overrun || o }
        link := .owed }
      ∧ (s.cfg.partialDelivery = false → o = false) := by
  have hlink (q : PeriphRegs) (hq : q.state = .dispatching) : linkOf s.p q = .owed := by
    simp [linkOf, periphListening, hs, hq]
  suffices hp : ∃ o, (deliver cuts frame s).p = { s.p with
      rxb := frame, rxn := s.cfg.pL, state := .dispatching, overrun := s.p.overrun || o }
      ∧ (s.cfg.partialDelivery = false → o = false) by
    obtain ⟨o, ho, hwhole⟩ := hp
    rw [deliver_p] at ho
    exact ⟨o, by rw [deliver, ho, hlink _ rfl], hwhole⟩
  have hstored : s.p.rxb.take 0 ++ frame ++ s.p.rxb.drop (0 + frame.length) = frame := by
    rw [List.take_zero, List.nil_append, Nat.zero_add, List.drop_of_length_le (by omega), List.append_nil]
  cases hpd : s.cfg.partialDelivery with
  | true =>
    obtain ⟨-, complete⟩ := splitWriteIsReceivedWhole s cuts frame hpd (.inl hs) hb
      (by simp only [hs, if_true, Params.pL]; omega)
    simp only [hs, if_true, hstored] at complete
    obtain ⟨o, ho⟩ := complete (by omega)
    exact ⟨o, ho, fun h => absurd h (by decide)⟩
  | false =>
    have hevents : eventsOf s.cfg cuts frame = [(frame, true)] := by simp [eventsOf, hpd]
    have hall : frame.take (s.cfg.pL - 0) = frame := List.take_of_length_le (by omega)
    refine ⟨false, ?_, fun _ => rfl⟩
    rw [deliver_p, hevents, receiveAll_cons, receiveAll_nil, receive_start s.cfg s.p frame true hs,
      receive_continue s.cfg { s.p with rxn := 0, state := .receiving } frame true rfl hb (Nat.zero_le _)]
    simp only [hall, hstored]
    simp [hpd, hlen]

/-- A write to a busy `P` sets OVERRUN, and it is owed no response (R119). -/
theorem deliver_to_busy (s : State) (cuts : List Nat) (bytes : List Byte)
    (hs : s.p.state = .dispatching ∨ s.p.state = .responding) :
    deliver cuts bytes s = { s with p := { s.p with overrun := true }, link := .none } := by
  obtain ⟨e, es, hes⟩ := List.exists_cons_of_ne_nil (eventsOf_ne_nil s.cfg cuts bytes)
  obtain ⟨o, ho⟩ := receives_busy s.cfg es { s.p with overrun := true } hs
  have hp : receiveAll s.cfg s.p (eventsOf s.cfg cuts bytes) = { s.p with overrun := true } := by
    rw [hes, receiveAll_cons, receive_busy _ _ _ _ hs, ho, Bool.true_or]
  rw [deliver, linkOf_busy s.p _ hs, hp]

theorem sendStep_wrongAddress (s : State) (hn : s.cfg.busNoise = false) (ha : s.h.periphAddr ≠ s.p.ownAddr) :
    sendStep s = { s with h := { s.h with cause := 0x40, causeCode := 0x03, state := .failed } } := by
  rw [sendStep, busWrite_wrongAddress s _ _ hn ha]; rfl

/-- On a clean bus the SEND step to the right address delivers `TXF` and goes on to WAITING. -/
theorem sendStep_clean (s : State) (hn : s.cfg.busNoise = false) (ha : s.h.periphAddr = s.p.ownAddr) :
    ∃ cuts ds n, sendStep s = setHostState .waiting (deliver cuts s.h.txf { s with draws := ds, drawCount := n })
      ∧ (s.cfg.partialDelivery = false → ds = s.draws ∧ n = s.drawCount) := by
  obtain ⟨cuts, ds, n, hw, hwhole⟩ := busWrite_clean s s.h.txf hn
  exact ⟨cuts, ds, n, by rw [sendStep, ha, hw]; rfl, hwhole⟩

/-- Under partial delivery on a clean bus `P` handles the chunks that the draw cuts. -/
theorem sendStep_chunks (s : State) (d : Draw) (ds : List Draw) (hn : s.cfg.busNoise = false)
    (ha : s.h.periphAddr = s.p.ownAddr) (hpd : s.cfg.partialDelivery = true) (hd : s.draws = d :: ds) :
    ∃ l, sendStep s = { s with
      h := { s.h with state := .waiting }
      p := (chunksOf d.cuts s.h.txf).foldl (fun p chunk => receive s.cfg p chunk.1 chunk.2) s.p
      link := l
      draws := ds } := by
  have hevents : eventsOf s.cfg d.cuts s.h.txf = chunksOf d.cuts s.h.txf := by rw [eventsOf, if_pos hpd]
  refine ⟨linkOf s.p (receiveAll s.cfg s.p (chunksOf d.cuts s.h.txf)), ?_⟩
  rw [sendStep, ha, busWrite_chunks s s.h.txf hn hpd, takeDraw_fixed s d ds hd, deliver, hevents]
  rfl

/-- On a noisy bus the draw says what is delivered and what is reported. -/
theorem sendStep_noisy (s : State) (d : Draw) (ds : List Draw) (hn : s.cfg.busNoise = true) (hd : s.draws = d :: ds) :
    sendStep s = afterWrite d.error
      (if d.delivers then deliver d.cuts d.bytes { s with draws := ds } else { s with draws := ds }) := by
  rw [sendStep, busWrite_noisy s _ _ hn, takeDraw_fixed s d ds hd]; rfl

/-- Settles O34: the outcome of the write, then what `P` makes of the frame. -/
theorem sendStepWithoutNoise : Obligations.SendStepWithoutNoise := by
  intro s rest h hi hs hn
  rw [step_send h hi hs]
  refine ⟨fun ha => ?wrong, fun ha hp htxf hb => ?idle, fun ha hp => ?busy, fun ha hpd d ds hd => ?chunks⟩
  case wrong => rw [sendStep_wrongAddress { s with inputs := rest } hn ha]
  case idle =>
    obtain ⟨cuts, ds, n, hsend, hwhole⟩ := sendStep_clean { s with inputs := rest } hn ha
    obtain ⟨o, ho, hno⟩ := deliver_frame_to_idle { s with inputs := rest, draws := ds, drawCount := n } cuts s.h.txf
      hp htxf hb
    exact ⟨o, ds, n, by rw [hsend, ho]; rfl, fun hpd => ⟨hno hpd, hwhole hpd⟩⟩
  case busy =>
    obtain ⟨cuts, ds, n, hsend, hwhole⟩ := sendStep_clean { s with inputs := rest } hn ha
    refine ⟨ds, n, ?_, hwhole⟩
    rw [hsend, deliver_to_busy { s with inputs := rest, draws := ds, drawCount := n } cuts s.h.txf hp]
    rfl
  case chunks =>
    obtain ⟨l, hsend⟩ := sendStep_chunks { s with inputs := rest } d ds hn ha hpd hd
    exact ⟨l, by rw [hsend]⟩

/-- Settles O35: through what the SEND step makes of the draw. -/
theorem noisyWriteAdmitsEveryOutcome : Obligations.NoisyWriteAdmitsEveryOutcome := by
  intro s rest d ds h hi hs hn hd
  refine ⟨_, step_send h hi hs, ?_, ?_⟩ <;> rw [sendStep_noisy { s with inputs := rest } d ds hn hd]
  · rw [afterWrite_p, apply_ite State.p, deliver_p, eventsOf]
    cases s.cfg.partialDelivery <;> rfl
  · have hh : (if d.delivers then deliver d.cuts d.bytes { s with inputs := rest, draws := ds }
        else { s with inputs := rest, draws := ds }).h = s.h := by
      rw [apply_ite State.h, deliver_h, ite_self]
    cases d.error with
    | none => rw [afterWrite, setHostState_h, hh]
    | some k => rw [afterWrite, failedEntry_h, hh]; cases k <;> rfl

/-! The READ step (R135). -/

/-- Settles O37: a settled buffer, and a wrong address. -/
theorem readStepWithoutNoise : Obligations.ReadStepWithoutNoise := by
  intro s rest h hi hs hn hready
  have read := step_read h hi hs (readEnabled_of_readReady hready)
  refine ⟨fun ha hv hp => ⟨BitVec.ofNat 8 s.cfg.pL, pL_toNat s.cfg h.1, ?_⟩, fun ha => ?_⟩
  · have hr := busRead_settled { s with inputs := rest } s.cfg.pL hn (settled_of_listening s.p hv hp)
    exact read _ _ (ha ▸ hr)
  · exact read _ _ (busRead_wrongAddress { s with inputs := rest } _ s.cfg.pL hn ha)

theorem busErrorCode_mem (k : BusError) : busErrorCode k ∈ ([0x01, 0x02, 0x03, 0x04, 0x05] : List Byte) := by
  cases k <;> decide

theorem exists_busErrorCode (code : Byte) (h : code ∈ ([0x01, 0x02, 0x03, 0x04, 0x05] : List Byte)) :
    ∃ k, busErrorCode k = code := by
  simp only [List.mem_cons, List.not_mem_nil, or_false] at h
  rcases h with rfl | rfl | rfl | rfl | rfl
  · exact ⟨.noResponse, rfl⟩
  · exact ⟨.shortRead, rfl⟩
  · exact ⟨.addressNack, rfl⟩
  · exact ⟨.timeout, rfl⟩
  · exact ⟨.other, rfl⟩

theorem drawnRead_cases (n : Nat) (d : Draw) :
    (∃ bytes, bytes.length = n ∧ drawnRead n d = .ok bytes) ∨ ∃ k, drawnRead n d = .error k := by
  unfold drawnRead
  cases d.error with
  | none => exact .inl ⟨_, fitTo_length n d.bytes, rfl⟩
  | some k => exact .inr ⟨k, rfl⟩

/-- A drawn read ends as the draw says. -/
theorem step_drawnRead {s : State} {rest : List Event} (h : s.inSpec) (hi : s.inputs = .host :: rest)
    (hs : s.h.state = .reading) (hready : s.readReady)
    (hdrawn : s.cfg.busNoise = true ∨ (s.h.periphAddr = s.p.ownAddr ∧ settled s.p = false)) :
    step s = .next (afterRead (drawnRead s.cfg.pL (takeDraw { s with inputs := rest }).1)
      (takeDraw { s with inputs := rest }).2) :=
  step_read h hi hs (readEnabled_of_readReady hready) _ _ (busRead_drawn { s with inputs := rest } _ _ hdrawn)

theorem afterRead_bytes_h (s : State) (bytes : List Byte) : (afterRead (.ok bytes) s).h
    = { s.h with rxf := bytes, rxn := BitVec.ofNat 8 s.cfg.pL, state := .validating } := rfl

theorem afterRead_error_h (s : State) (k : BusError) : (afterRead (.error k) s).h = { s.h with
    rxf := List.replicate s.cfg.pL 0x00, rxn := 0, cause := 0x60, causeCode := busErrorCode k, state := .failed } := rfl

/-- Settles O38: the draw of the read is any draw, and a fixed draw gives each of the outcomes. -/
theorem drawnReadAdmitsExactlyTheStatedOutcomes : Obligations.DrawnReadAdmitsExactlyTheStatedOutcomes := by
  intro s rest h hi hs hready hdrawn gotBytes gotError codes
  have hdrawn' := hdrawn.imp_right fun ⟨ha, hbusy⟩ => (⟨ha, not_settled s.p hbusy⟩ : _ ∧ _)
  have fixed (d : Draw) : step { s with draws := d :: s.draws }
      = .next (afterRead (drawnRead s.cfg.pL d) { s with inputs := rest }) :=
    step_drawnRead (s := { s with draws := d :: s.draws }) h hi hs hready hdrawn'
  refine ⟨⟨_, step_drawnRead h hi hs hready hdrawn', by simp, ?_⟩, fun bytes hlen => ?_, fun code hcode => ?_⟩
  · rcases drawnRead_cases s.cfg.pL (takeDraw { s with inputs := rest }).1 with ⟨bytes, hlen, hr⟩ | ⟨k, hr⟩
    · exact .inl ⟨bytes, hlen, by simp only [gotBytes, hr, afterRead_bytes_h, takeDraw_h, takeDraw_cfg]⟩
    · exact .inr ⟨_, busErrorCode_mem k, by simp only [gotError, hr, afterRead_error_h, takeDraw_h, takeDraw_cfg]⟩
  · refine ⟨⟨none, false, bytes, [], .pending, true⟩, _, fixed _, ?_⟩
    rw [drawnRead, fitTo_of_length s.cfg.pL bytes hlen]; rfl
  · obtain ⟨k, rfl⟩ := exists_busErrorCode code hcode
    exact ⟨⟨some k, false, [], [], .pending, true⟩, _, fixed _, rfl⟩

end Sys2Proof.Proofs.BusSteps
end

section
/-! SUPPORT. Proofs of the statements on memory and the bus, part 3: `P.STATE` over one step. -/

namespace Sys2Proof.Proofs.PeriphStates

open Sys2Proof.Machine Sys2Proof.Laws Sys2Proof.Proofs.Scope Sys2Proof.Proofs.Instances Sys2Proof.Proofs.Invariants
  Sys2Proof.Proofs.Separation

/-! Receive events on `P.STATE` (R113 to R119). -/

/-- The moves of `P.STATE` that the receive events of one write make together (R113, R50 (a)). -/
inductive ReceiveMoves : PeriphState → PeriphState → Prop
  | stay (a : PeriphState) : ReceiveMoves a a
  | start : ReceiveMoves .idle .receiving
  | whole : ReceiveMoves .idle .dispatching
  | complete : ReceiveMoves .receiving .dispatching

theorem ReceiveMoves.trans {a b c : PeriphState} (hab : ReceiveMoves a b) (hbc : ReceiveMoves b c) :
    ReceiveMoves a c := by
  cases hab with
  | stay => exact hbc
  | start =>
    cases hbc with
    | stay => exact .start
    | complete => exact .whole
  | whole => cases hbc; exact .whole
  | complete => cases hbc; exact .complete

/-- The moves of receive events are in the table. -/
theorem ReceiveMoves.in_table {a b : PeriphState} (h : ReceiveMoves a b) : b = a ∨ (a, b) ∈ periphTransitions := by
  cases h with
  | stay => exact .inl rfl
  | start | whole | complete => exact .inr (by decide)

theorem receive_moves (prm : Params) (p : PeriphRegs) (bytes : List Byte) (last : Bool) :
    ReceiveMoves p.state (receive prm p bytes last).state := by
  have checked (q : PeriphRegs) (hq : q.state = .receiving) :
      (endCheck prm last (storeBytes prm q bytes)).state = .dispatching
      ∨ (endCheck prm last (storeBytes prm q bytes)).state = .receiving := by
    have hstored : (storeBytes prm q bytes).state = .receiving := by rw [storeBytes_frame]; exact hq
    rw [endCheck_state, ← hstored]
    exact ite_eq_or_eq _ _ _
  cases hs : p.state with
  | idle =>
    simp only [receive, hs]
    rcases checked { p with rxn := 0, state := .receiving } rfl with h | h <;> rw [h]
    · exact .whole
    · exact .start
  | receiving =>
    simp only [receive, hs]
    rcases checked p hs with h | h <;> rw [h]
    · exact .complete
    · exact .stay _
  | dispatching => rw [receive_busy prm p bytes last (.inl hs), ← hs]; exact .stay _
  | responding => rw [receive_busy prm p bytes last (.inr hs), ← hs]; exact .stay _

theorem receiveAll_moves (prm : Params) (p : PeriphRegs) (es : List (List Byte × Bool)) :
    ReceiveMoves p.state (receiveAll prm p es).state :=
  receiveAll_keeps prm (fun q => ReceiveMoves p.state q.state) es
    (fun q e _ hq => hq.trans (receive_moves prm q e.1 e.2)) p (.stay _)

/-! One step of `P`. -/

/-- All that a step given to `P` does to `P.STATE` and to `H`. -/
theorem fetchPeriph_state (s t : State) (h : runFetched (fetchPeriph s) = .next t) :
    (s.p.state = .dispatching ∧ t.p.state = .responding) ∨ (s.p.state = .responding ∧ t.p.state = .idle)
    ∨ (periphEnabled s = false ∧ t = s) := by
  cases hs : s.p.state with
  | dispatching =>
    obtain ⟨t', ht', hresp, -⟩ := dispatch_responds s hs
    cases ht'.symm.trans h
    exact .inl ⟨rfl, hresp⟩
  | responding =>
    simp only [fetchPeriph, hs, runFetched, Host.Outcome.next.injEq] at h
    exact .inr (.inl ⟨rfl, by rw [← h, respondStep_p]⟩)
  | idle | receiving =>
    simp only [fetchPeriph, hs, runFetched, Host.Outcome.next.injEq] at h
    exact .inr (.inr ⟨by simp [periphEnabled, hs], h.symm⟩)

/-! One move, and one step. -/

theorem dispatch_in_table : (.dispatching, .responding) ∈ periphTransitions := by decide

theorem respond_in_table : (.responding, .idle) ∈ periphTransitions := by decide

theorem move_periphState {s t : State} (h : Move s t) :
    t.p.state = s.p.state ∨ (s.p.state, t.p.state) ∈ periphTransitions := by
  cases h with
  | stay | replies _ _ | wait _ | validateError _ _ _ => exact .inl rfl
  | word u hr he => rw [reply_p, (wordEffect_cfg_p he).2]; exact .inl rfl
  | send hs =>
    rw [sendStep, afterWrite_p]
    rcases busWrite_p_link s s.h.periphAddr s.h.txf with ⟨hp, -⟩ | ⟨cs, b, hp, -⟩ <;> rw [hp]
    · exact .inl rfl
    · exact (receiveAll_moves s.cfg s.p _).in_table
  | read _ _ =>
    obtain ⟨-, -, hp, -⟩ := sameButDraws_fields (busRead_same s s.h.periphAddr s.cfg.pL)
    rw [afterRead_p, hp]; exact .inl rfl
  | validate _ st d _ _ => rw [(validateStatus_cfg_p_link s st d).2.1]; exact .inl rfl
  | dispatch hs c d hl =>
    have hnext : (dispatchCommand c d s).p.state = .responding := by
      rcases dispatchCommand_cases s c d with ⟨h, -⟩ | ⟨-, -, h⟩ | ⟨-, -, -, h⟩ | ⟨-, -, -, h⟩
      · exact absurd hs h
      · rw [h, refuseFrame_p]
      · rw [h, actOn_p]
      · rw [h, chooseResponse_p]
    rw [hs, hnext]; exact .inr dispatch_in_table
  | dispatchError hs e => rw [hs]; exact .inr dispatch_in_table
  | respond hs => rw [hs]; exact .inr respond_in_table

/-- Settles O47: each move of the machine keeps `P.STATE` or is in the table, and a reset of `P` is an input. -/
theorem periphStateFollowsItsTable : Obligations.PeriphStateFollowsItsTable := by
  intro s t h
  obtain ⟨-, hreset | ⟨u, hu, hmove⟩⟩ := step_moves s t h
  · cases hreset with
    | host rest _ => exact .inl rfl
    | periph rest hi => exact .inr (.inr ⟨⟨rest, .inl hi⟩, rfl⟩)
    | power rest hi => exact .inr (.inr ⟨⟨rest, .inr hi⟩, rfl⟩)
  · obtain ⟨-, -, hp, -⟩ := sameButQueues_fields hu
    rw [← hp]
    exact (move_periphState hmove).imp_right .inl

/-! A busy `P` (R119, R58). -/

/-- `P` dispatches or responds (R119). -/
def PeriphBusy (p : PeriphRegs) : Prop :=
  p.state = .dispatching ∨ p.state = .responding

/-- A step of `H` does no more to a busy `P` than set OVERRUN. -/
theorem fetchHost_busy (s t : State) (hbusy : PeriphBusy s.p) (h : runFetched (fetchHost s) = .next t) :
    clearOverrun t.p = clearOverrun s.p := by
  obtain ⟨-, -, -, -, hp | ⟨-, cs, b, hp⟩⟩ := host_frame s t h
  · rw [hp]
  · obtain ⟨o, ho⟩ := receives_busy s.cfg (eventsOf s.cfg cs b) s.p hbusy
    rw [hp, ho]; rfl

/-- With no input left a step is an enabled one of `H`, an enabled one of `P`, or nothing (log 2). -/
theorem fetchFree_cases (s t : State) (h : runFetched (fetchFree s) = .next t) :
    ∃ u, SameButDraws s u ∧
      ((hostEnabled s = true ∧ runFetched (fetchHost u) = .next t)
      ∨ (periphEnabled s = true ∧ runFetched (fetchPeriph u) = .next t)
      ∨ (hostEnabled s = false ∧ periphEnabled s = false ∧ t = s)) := by
  unfold fetchFree at h
  cases hh : hostEnabled s <;> cases hp : periphEnabled s <;>
    simp only [hh, hp, Bool.false_eq_true, if_true, if_false] at h
  · exact ⟨s, .rfl s, .inr (.inr ⟨rfl, rfl, (Host.Outcome.next.inj h).symm⟩)⟩
  · exact ⟨s, .rfl s, .inr (.inl ⟨rfl, h⟩)⟩
  · exact ⟨s, .rfl s, .inl ⟨rfl, h⟩⟩
  · refine ⟨(takeDraw s).2, takeDraw_same s, ?_⟩
    split at h
    · exact .inl ⟨rfl, h⟩
    · exact .inr (.inl ⟨rfl, h⟩)

/-- An input that is no step and no reset of `P` does no more to a busy `P` than set OVERRUN. -/
theorem fetchEvent_busy (e : Event) (s t : State) (hbusy : PeriphBusy s.p) (hperiph : e ≠ .periph)
    (hreset : e ≠ .resetPeriph) (hpower : e ≠ .powerOn) (h : runFetched (fetchEvent e s) = .next t) :
    clearOverrun t.p = clearOverrun s.p := by
  cases e with
  | word cw =>
    obtain ⟨-, hp, -⟩ := word_frame s t cw h
    rw [hp]
  | host => exact fetchHost_busy s t hbusy h
  | resetHost => cases h; rfl
  | periph => exact absurd rfl hperiph
  | resetPeriph => exact absurd rfl hreset
  | powerOn => exact absurd rfl hpower

/-- With no input left, a busy `P` is left alone or moves itself. -/
theorem fetchFree_busy (s t : State) (hbusy : PeriphBusy s.p) (h : runFetched (fetchFree s) = .next t) :
    clearOverrun t.p = clearOverrun s.p
    ∨ (t.h = s.h ∧ ((s.p.state = .dispatching ∧ t.p.state = .responding)
      ∨ (s.p.state = .responding ∧ t.p.state = .idle))) := by
  obtain ⟨u, hu, hcases⟩ := fetchFree_cases s t h
  obtain ⟨-, huh, hup, -⟩ := sameButDraws_fields hu
  rw [← huh, ← hup]
  rw [← hup] at hbusy
  rcases hcases with ⟨-, h⟩ | ⟨-, h⟩ | ⟨-, -, rfl⟩
  · exact .inl (fetchHost_busy u t hbusy h)
  · obtain ⟨-, hh, -⟩ := periph_frame u t h
    rcases fetchPeriph_state u t h with hp | hp | ⟨-, rfl⟩
    · exact .inr ⟨hh, .inl hp⟩
    · exact .inr ⟨hh, .inr hp⟩
    · exact .inl rfl
  · exact .inl (by rw [hup])

/-- Settles O42: by the kind of the input, and with none left by whether `H` or `P` moves. -/
theorem busyPeripheralIsUndisturbed : Obligations.BusyPeripheralIsUndisturbed := by
  refine ⟨receive_busy, fun s t hbusy h => ?_⟩
  obtain ⟨hs, -⟩ := step_moves s t h
  constructor
  · intro e rest hi hperiph hreset hpower
    rw [step_input s e rest hs hi] at h
    exact fetchEvent_busy e { s with inputs := rest } t hbusy hperiph hreset hpower h
  · intro hi
    rw [step_free s hs hi] at h
    exact fetchFree_busy s t hbusy h

end Sys2Proof.Proofs.PeriphStates
end

section
/-! SUPPORT. Proofs of the statements on memory and the bus, part 4: every transaction ends. What a step keeps, how many
steps a transaction can still take, and that each enabled step takes one off. -/

namespace Sys2Proof.Proofs.Liveness

open Sys2Proof.Machine Sys2Proof.Laws Sys2Proof.Proofs.Scope Sys2Proof.Proofs.Instances Sys2Proof.Proofs.Invariants
  Sys2Proof.Proofs.Separation Sys2Proof.Proofs.BusSteps Sys2Proof.Proofs.PeriphStates

/-! Every step stays inside the spec (R158). -/

theorem inSpec_iff (s : State) :
    s.inSpec ↔ legalParams s.cfg = true ∧ causeReserved s.h.cause = 0 ∧ s.p.rxn ≤ s.cfg.pL + 1 := by
  simp [State.inSpec, unreachableState]

/-- A step keeps `CAUSE`, clears it, or records one of the causes of R153. -/
theorem hostMove_cause {s : State} {h : HostRegs} (hm : HostMove s h) :
    h.cause = s.h.cause ∨ h.cause ∈ ([0x00, 0x40, 0x60, 0x80, 0xC0] : List Byte) := by
  cases hm with
  | same | sent _ | waited _ | gotBytes _ _ _ | gotOk _ _ _ _ => exact .inl rfl
  | reset => exact .inr (by simp [HostRegs.reset])
  | writeFailed _ _ | readFailed _ _ | gotFailure _ _ _ _ _ _ | undecodable _ _ => exact .inr (by simp)
  | word u _ he =>
    cases he with
    | txn => exact .inr (by simp)
    | _ => exact .inl rfl

/-- No rule sets a reserved bit of `CAUSE` (R23, R153). -/
theorem hostMove_causeReserved {s : State} {h : HostRegs} (hm : HostMove s h) (hs : causeReserved s.h.cause = 0) :
    causeReserved h.cause = 0 := by
  have recorded : ∀ c ∈ ([0x00, 0x40, 0x60, 0x80, 0xC0] : List Byte), causeReserved c = 0 := by decide
  rcases hostMove_cause hm with hc | hc
  · rw [hc, hs]
  · exact recorded _ hc

theorem receive_rxn_le (prm : Params) (p : PeriphRegs) (bytes : List Byte) (last : Bool) (hp : p.rxn ≤ prm.pL + 1) :
    (receive prm p bytes last).rxn ≤ prm.pL + 1 := by
  have stored (q : PeriphRegs) (hq : q.rxn ≤ prm.pL + 1) :
      (endCheck prm last (storeBytes prm q bytes)).rxn ≤ prm.pL + 1 := by
    rw [endCheck_state]
    exact (storeBytes_rxn prm bytes q hq).trans_le (Nat.min_le_right _ _)
  unfold receive
  split
  · exact stored _ (Nat.zero_le _)
  · exact stored p hp
  · exact hp
  · exact hp

theorem periphMove_rxn {s : State} {p : PeriphRegs} {l : Link} (hm : PeriphMove s p l) (hp : s.p.rxn ≤ s.cfg.pL + 1) :
    p.rxn ≤ s.cfg.pL + 1 := by
  cases hm with
  | same _ _ | chosen _ _ _ _ _ | committed _ => exact hp
  | reset _ _ => exact Nat.zero_le _
  | received cs b =>
    exact receiveAll_keeps s.cfg (·.rxn ≤ s.cfg.pL + 1) _ (fun q e _ => receive_rxn_le s.cfg q e.1 e.2) s.p hp

theorem step_inSpec {s t : State} (h : step s = .next t) : t.inSpec := by
  obtain ⟨u, hu, hcfg, hhost, hperiph⟩ := step_instances h
  obtain ⟨hucfg, huh, hup, -⟩ := sameButQueues_fields hu
  obtain ⟨hlegal, hcause, hrxn⟩ := (inSpec_iff s).1 (step_moves s t h).1
  rw [inSpec_iff, hcfg]
  rw [← huh] at hcause
  rw [← hucfg] at hlegal hrxn
  rw [← hup] at hrxn
  exact ⟨hlegal, hostMove_causeReserved hhost hcause, periphMove_rxn hperiph hrxn⟩

/-! A response is owed only by a busy `P` (log 6). -/

/-- The clause of `PeriphCoherent` on the record `link`. -/
def OwedByBusy (s : State) : Prop :=
  s.link = .owed → PeriphBusy s.p

theorem step_owedByBusy {s t : State} (hs : OwedByBusy s) (h : step s = .next t) : OwedByBusy t := by
  obtain ⟨u, hu, -, -, hperiph⟩ := step_instances h
  obtain ⟨-, -, hup, hul⟩ := sameButQueues_fields hu
  unfold OwedByBusy at *
  rw [← hup, ← hul] at hs
  generalize t.p = p, t.link = l at hperiph ⊢
  cases hperiph with
  | same _ hl => exact fun ho => hs (hl.elim (fun h => h ▸ ho) fun hne => absurd ho hne)
  | reset _ hl => exact fun ho => absurd ho hl
  | received cs b => exact linkOf_owed _ _
  | chosen _ _ _ _ _ => exact fun _ => .inr rfl
  | committed _ => exact fun ho => absurd ho (linkAnswered_ne_owed _)

/-! How many steps are left. -/

/-- The steps `H` can still take in this transaction, with the two that SEND can give `P` counted at SEND. -/
def hostSteps : HostState → Nat
  | .sending => 6
  | .waiting => 3
  | .reading => 2
  | .validating => 1
  | .idle | .done | .failed => 0

/-- The steps `P` can take for the frame it holds: DISPATCH and RESPOND. -/
def periphSteps : PeriphState → Nat
  | .dispatching => 2
  | .responding => 1
  | .idle | .receiving => 0

def stepsLeft (s : State) : Nat :=
  hostSteps s.h.state + periphSteps s.p.state

theorem periphSteps_le (st : PeriphState) : periphSteps st ≤ 2 := by cases st <;> decide

theorem stepsLeft_le (s : State) : stepsLeft s ≤ 8 := by
  have hh : hostSteps s.h.state ≤ 6 := by cases s.h.state <;> decide
  exact Nat.add_le_add hh (periphSteps_le _)

theorem hostSteps_pos {st : HostState} (h : st.busy) : 0 < hostSteps st := by
  rcases h with rfl | rfl | rfl | rfl <;> decide

theorem periphEnabled_iff (s : State) : periphEnabled s = true ↔ PeriphBusy s.p := by
  cases hs : s.p.state <;> simp [periphEnabled, PeriphBusy, hs]

/-! A step of `H`. -/

/-- The moves of `H.STATE` in the transaction steps (R133 to R136). -/
inductive HostAdvances : HostState → HostState → Prop
  | sent : HostAdvances .sending .waiting
  | writeFailed : HostAdvances .sending .failed
  | waited : HostAdvances .waiting .reading
  | read : HostAdvances .reading .validating
  | readFailed : HostAdvances .reading .failed
  | done : HostAdvances .validating .done
  | failed : HostAdvances .validating .failed

theorem validateStep_advances (s t : State) (h : runFetched (validateStep s) = .next t) (hs : s.h.state = .validating) :
    HostAdvances .validating t.h.state := by
  unfold validateStep at h
  split at h
  · rename_i i hi
    obtain ⟨st, d, rfl, hl, -⟩ := decodeResponse_ok _ _ _ hi
    have hexec : exec (st.instr d) s = .next t := h
    rw [exec_status] at hexec
    cases hexec
    rcases validateStatus_cases s st d with ⟨h, -⟩ | ⟨-, h, -⟩ | ⟨-, -, -, h⟩ | ⟨-, -, -, h⟩
    · exact absurd hs h
    · exact absurd hl h
    · rw [h]; exact .done
    · rw [h]; exact .failed
  · cases h; exact .failed

/-- All that a step given to `H` does to `H.STATE`. -/
theorem fetchHost_state (s t : State) (h : runFetched (fetchHost s) = .next t) :
    HostAdvances s.h.state t.h.state ∨ (hostEnabled s = false ∧ t = s) := by
  cases hs : s.h.state with
  | sending =>
    simp only [fetchHost, hs, runFetched, Host.Outcome.next.injEq] at h
    rw [← h]
    rcases sendStep_h s with hh | ⟨k, hh⟩ <;> rw [hh]
    · exact .inl .sent
    · exact .inl .writeFailed
  | waiting =>
    simp only [fetchHost, hs, runFetched, Host.Outcome.next.injEq] at h
    rw [← h, waitStep_h]; exact .inl .waited
  | reading =>
    cases he : readEnabled s with
    | true =>
      simp only [fetchHost, hs, he, if_true, readStep_eq, runFetched, Host.Outcome.next.injEq] at h
      rw [← h]
      rcases afterRead_busRead_h s s.h.periphAddr with ⟨bs, -, hh⟩ | ⟨k, hh⟩ <;> rw [hh]
      · exact .inl .read
      · exact .inl .readFailed
    | false =>
      simp only [fetchHost, hs, he, Bool.false_eq_true, if_false, runFetched, Host.Outcome.next.injEq] at h
      exact .inr ⟨by simp [hostEnabled, hs, he], h.symm⟩
  | validating =>
    simp only [fetchHost, hs] at h
    exact .inl (validateStep_advances s t h hs)
  | idle | done | failed =>
    simp only [fetchHost, hs, runFetched, Host.Outcome.next.injEq] at h
    exact .inr ⟨by simp [hostEnabled, hs], h.symm⟩

/-- A step of `H` takes at least one of the steps left and does not end in IDLE; with none enabled it does nothing. -/
theorem fetchHost_progress (s t : State) (h : runFetched (fetchHost s) = .next t) :
    (t.h.state ≠ .idle ∧ stepsLeft t < stepsLeft s) ∨ (hostEnabled s = false ∧ t = s) := by
  refine (fetchHost_state s t h).imp_left fun hadv => ?_
  have hp : s.h.state ≠ .sending → t.p.state = s.p.state := by
    obtain ⟨-, -, -, -, hp | ⟨hsend, -⟩⟩ := host_frame s t h
    · exact fun _ => by rw [hp]
    · exact fun hne => absurd hsend hne
  have htwo := periphSteps_le t.p.state
  unfold stepsLeft
  generalize s.h.state = a, t.h.state = b at *
  cases hadv with
  | sent | writeFailed => exact ⟨by decide, by simp only [hostSteps]; omega⟩
  | waited | read | readFailed | done | failed =>
    rw [hp (by decide)]; exact ⟨by decide, by simp only [hostSteps]; omega⟩

/-- A step of `P` takes one of the steps left; with none enabled it does nothing. -/
theorem fetchPeriph_progress (s t : State) (h : runFetched (fetchPeriph s) = .next t) :
    (t.h = s.h ∧ stepsLeft t < stepsLeft s) ∨ (periphEnabled s = false ∧ t = s) := by
  obtain ⟨-, hh, -⟩ := periph_frame s t h
  unfold stepsLeft
  rcases fetchPeriph_state s t h with ⟨hs, ht⟩ | ⟨hs, ht⟩ | hnone
  · exact .inl ⟨hh, by simp [hh, hs, ht, periphSteps]⟩
  · exact .inl ⟨hh, by simp [hh, hs, ht, periphSteps]⟩
  · exact .inr hnone

/-! A state from which a transaction ends. -/

/-- A transaction was begun and its outcome is still there, and what `DELAY_SUFFICIENT` waits for will come. -/
structure OnTrack (s : State) : Prop where
  inSpec : s.inSpec
  notIdle : s.h.state ≠ .idle
  owed : s.cfg.delaySufficient = true → OwedByBusy s

theorem OnTrack.step {s t : State} (hs : OnTrack s) (h : step s = .next t) (hidle : t.h.state ≠ .idle) : OnTrack t :=
  ⟨step_inSpec h, hidle, fun hd => step_owedByBusy (hs.owed (step_cfg h ▸ hd)) h⟩

theorem OnTrack.of_busy {s : State} (h : s.inSpec) (hb : s.h.state.busy)
    (hd : s.cfg.delaySufficient = false ∨ (s.delayTaken ∧ PeriphCoherent s)) : OnTrack s where
  inSpec := h
  notIdle hidle := by rcases hb with hb | hb | hb | hb <;> cases hidle.symm.trans hb
  owed hdelay := by
    rcases hd with hd | ⟨-, hc⟩
    · rw [hdelay] at hd; cases hd
    · exact hc.owed

/-- The transaction has ended, or is in flight. -/
theorem OnTrack.ended_or_busy {s : State} (hs : OnTrack s) :
    (s.h.state = .done ∨ s.h.state = .failed) ∨ s.h.state.busy := by
  rcases busy_or_atRest s.h.state with hb | hidle | hend
  · exact .inr hb
  · exact absurd hidle hs.notIdle
  · exact .inl hend

/-- Where `H` in flight has no step enabled, `P` has one (R57, log 6). -/
theorem OnTrack.periphBusy {s : State} (hs : OnTrack s) (hb : s.h.state.busy) (he : hostEnabled s = false) :
    PeriphBusy s.p := by
  have hread : readEnabled s = false := by
    rcases hb with hb | hb | hb | hb <;> simp [hostEnabled, hb] at he
    exact he
  simp only [readEnabled, Bool.or_eq_false_iff, Bool.not_eq_eq_eq_not, Bool.not_false, Bool.and_eq_false_iff,
    decide_eq_false_iff_not, ne_eq, not_not] at hread
  obtain ⟨hdelay, howed | hlisten⟩ := hread
  · exact hs.owed hdelay howed
  · unfold PeriphBusy
    cases hp : s.p.state <;> simp [periphListening, hp] at hlisten ⊢

/-- With no step enabled none is left, and the transaction has ended. -/
theorem OnTrack.no_step_left {s : State} (hs : OnTrack s) (hh : hostEnabled s = false) (hp : periphEnabled s = false) :
    stepsLeft s = 0 := by
  have hidle : ¬ PeriphBusy s.p := fun h => by rw [(periphEnabled_iff s).2 h] at hp; cases hp
  rcases hs.ended_or_busy with hend | hb
  · have hperiph : periphSteps s.p.state = 0 := by
      cases hps : s.p.state <;> simp [PeriphBusy, hps] at hidle <;> rfl
    rcases hend with hend | hend <;> simp [stepsLeft, hend, hostSteps, hperiph]
  · exact absurd (hs.periphBusy hb hh) hidle

theorem OnTrack.ended {s : State} (hs : OnTrack s) (h : stepsLeft s = 0) :
    (s.h.state = .done ∨ s.h.state = .failed) ∧ (s.p.state = .idle ∨ s.p.state = .receiving) := by
  obtain ⟨hh, hp⟩ := Nat.add_eq_zero_iff.1 h
  refine ⟨hs.ended_or_busy.resolve_right fun hb => (hostSteps_pos hb).ne' hh, ?_⟩
  cases hps : s.p.state <;> simp [periphSteps, hps] at hp ⊢

/-! With no input left (O55). -/

theorem sameButDraws_enabled {s u : State} (h : SameButDraws s u) :
    hostEnabled u = hostEnabled s ∧ periphEnabled u = periphEnabled s ∧ stepsLeft u = stepsLeft s
      ∧ u.inputs = s.inputs := by
  unfold SameButDraws at h
  rw [h]; exact ⟨rfl, rfl, rfl, rfl⟩

/-- With no input left each step takes one of the steps left, and with none left nothing changes. -/
theorem OnTrack.free_step {s : State} (hs : OnTrack s) (hi : s.inputs = []) :
    ∃ t, Machine.step s = .next t ∧ OnTrack t ∧ t.inputs = [] ∧ stepsLeft t ≤ stepsLeft s - 1 := by
  obtain ⟨t, ht⟩ := step_next_of_inSpec s hs.inSpec
  have hfree := ht
  rw [step_free s hs.inSpec hi] at hfree
  obtain ⟨u, hu, hcases⟩ := fetchFree_cases s t hfree
  obtain ⟨hhost, hperiph, hleft, hinputs⟩ := sameButDraws_enabled hu
  obtain ⟨-, huh, -, -⟩ := sameButDraws_fields hu
  refine ⟨t, ht, ?_⟩
  rcases hcases with ⟨he, h⟩ | ⟨he, h⟩ | ⟨hh, hp, rfl⟩
  · obtain ⟨hidle, hlt⟩ := (fetchHost_progress u t h).resolve_right fun ⟨hne, _⟩ => by simp [hhost, he] at hne
    obtain ⟨-, -, -, hti, -⟩ := host_frame u t h
    exact ⟨hs.step ht hidle, by rw [hti, hinputs, hi], by omega⟩
  · obtain ⟨hth, hlt⟩ := (fetchPeriph_progress u t h).resolve_right fun ⟨hne, _⟩ => by simp [hperiph, he] at hne
    obtain ⟨-, -, -, hti⟩ := periph_frame u t h
    exact ⟨hs.step ht (by rw [hth, huh]; exact hs.notIdle), by rw [hti, hinputs, hi], by omega⟩
  · exact ⟨hs, hi, by rw [hs.no_step_left hh hp]⟩

theorem OnTrack.run_free (n : Nat) : ∀ s : State, OnTrack s → s.inputs = [] → stepsLeft s ≤ n →
    ∃ t, run n s = .next t ∧ OnTrack t ∧ stepsLeft t = 0 := by
  induction n with
  | zero => intro s hs _ hn; exact ⟨s, rfl, hs, Nat.le_zero.1 hn⟩
  | succ n ih =>
    intro s hs hi hn
    obtain ⟨t, ht, htrack, hti, hleft⟩ := hs.free_step hi
    rw [run_next n s t ht]
    exact ih t htrack hti (by omega)

/-- Settles O55: at most eight steps are left, and each step takes one of them. -/
theorem transactionEndsInEightSteps : Obligations.TransactionEndsInEightSteps := by
  intro s h hi hb hd
  obtain ⟨t, ht, htrack, hleft⟩ := OnTrack.run_free 8 s (.of_busy h hb hd) hi (stepsLeft_le s)
  exact ⟨t, ht, htrack.ended hleft⟩

/-! With inputs in fair rounds (O56). -/

/-- The transaction has ended at some point within `n` steps. -/
def EndsWithin (n : Nat) (s : State) : Prop :=
  ∃ k t, k ≤ n ∧ run k s = .next t ∧ (t.h.state = .done ∨ t.h.state = .failed)

theorem EndsWithin.after_step {n : Nat} {s t : State} (h : step s = .next t) (ht : EndsWithin n t) :
    EndsWithin (n + 1) s := by
  obtain ⟨k, u, hk, hrun, hend⟩ := ht
  exact ⟨k + 1, u, Nat.succ_le_succ hk, by rw [run_next k s t h, hrun], hend⟩

/-- The inputs of a fair stretch: control words, and steps given to the two instances. -/
def NoReset (e : Event) : Prop :=
  e ≠ .resetHost ∧ e ≠ .resetPeriph ∧ e ≠ .powerOn

/-- The step that takes a transaction on: `P`'s while it is busy, and else `H`'s. -/
def dueStep (st : PeriphState) : Event :=
  match st with
  | .dispatching | .responding => .periph
  | .idle | .receiving => .host

theorem dueStep_of_busy {p : PeriphRegs} (h : PeriphBusy p) : dueStep p.state = .periph := by
  rcases h with h | h <;> rw [h] <;> rfl

theorem dueStep_of_not_busy {p : PeriphRegs} (h : ¬ PeriphBusy p) : dueStep p.state = .host := by
  cases hs : p.state <;> simp [PeriphBusy, hs] at h <;> rfl

theorem fairRound_due (r : List Event) (h : fairRound r) (st : PeriphState) : dueStep st ∈ r := by
  obtain ⟨hhost, hperiph, -⟩ := h
  cases st with
  | dispatching | responding => exact hperiph
  | idle | receiving => exact hhost

theorem fairRound_noReset (r : List Event) (h : fairRound r) : ∀ e ∈ r, NoReset e := by
  obtain ⟨-, -, hhost, hperiph, hpower⟩ := h
  exact fun e he => ⟨fun h => hhost (h ▸ he), fun h => hperiph (h ▸ he), fun h => hpower (h ▸ he)⟩

/-- A control word changes nothing of `H`'s registers while a transaction is in flight (R157). -/
theorem fetchWord_busy (cw : ControlWord) (s t : State) (hb : s.h.state.busy)
    (h : runFetched (fetchWord cw s) = .next t) : t.h = s.h := by
  unfold fetchWord at h
  split at h
  · rename_i i hi
    rcases word_cases i s t (decodeWord_isWord _ _ _ hi) h with ⟨a, v, rfl⟩ | ⟨hr, -⟩
    · rfl
    · exact absurd hb (not_busy_of_atRest hr)
  · cases h; rfl

/-- What an input other than a reset does to a transaction in flight: it takes one of the steps left, or it was not the
step that is due, and none is taken. -/
theorem fetchEvent_progress (e : Event) (s t : State) (hs : OnTrack s) (hb : s.h.state.busy) (he : NoReset e)
    (h : runFetched (fetchEvent e s) = .next t) :
    t.h.state ≠ .idle ∧ t.inputs = s.inputs
      ∧ (stepsLeft t < stepsLeft s
        ∨ (stepsLeft t = stepsLeft s ∧ t.p.state = s.p.state ∧ dueStep s.p.state ≠ e)) := by
  obtain ⟨hhost, hperiph, hpower⟩ := he
  cases e with
  | word cw =>
    obtain ⟨-, hp, -, -, -, hti⟩ := word_frame s t cw h
    have hh := fetchWord_busy cw s t hb h
    refine ⟨by rw [hh]; exact hs.notIdle, hti, .inr ⟨by rw [stepsLeft, hh, hp]; rfl, by rw [hp], ?_⟩⟩
    cases s.p.state <;> exact Event.noConfusion
  | host =>
    obtain ⟨-, -, -, hti, -⟩ := host_frame s t h
    rcases fetchHost_progress s t h with ⟨hidle, hlt⟩ | ⟨hen, rfl⟩
    · exact ⟨hidle, hti, .inl hlt⟩
    · exact ⟨hs.notIdle, rfl, .inr ⟨rfl, rfl, by rw [dueStep_of_busy (hs.periphBusy hb hen)]; simp⟩⟩
  | periph =>
    obtain ⟨-, -, -, hti⟩ := periph_frame s t h
    rcases fetchPeriph_progress s t h with ⟨hh, hlt⟩ | ⟨hen, rfl⟩
    · exact ⟨by rw [hh]; exact hs.notIdle, hti, .inl hlt⟩
    · have hidle : ¬ PeriphBusy t.p := by rw [← periphEnabled_iff, hen]; decide
      exact ⟨hs.notIdle, rfl, .inr ⟨rfl, rfl, by rw [dueStep_of_not_busy hidle]; simp⟩⟩
  | resetHost => exact absurd rfl hhost
  | resetPeriph => exact absurd rfl hperiph
  | powerOn => exact absurd rfl hpower

/-- A stretch of inputs that holds the step that is due takes one of the steps left, unless the transaction ends in it:
so if from fewer steps left it ends within `n` steps more, it ends within the stretch and `n` steps more. -/
theorem OnTrack.endsWithin_stretch (m n : Nat) (rest : List Event)
    (hrest : ∀ t, OnTrack t → t.h.state.busy → t.inputs = rest → stepsLeft t < m → EndsWithin n t) (es : List Event) :
    ∀ s : State, OnTrack s → s.inputs = es ++ rest → (∀ e ∈ es, NoReset e) →
      stepsLeft s < m ∨ (stepsLeft s = m ∧ dueStep s.p.state ∈ es) → EndsWithin (es.length + n) s := by
  induction es with
  | nil =>
    intro s hs hi _ hm
    rcases hs.ended_or_busy with hend | hb
    · exact ⟨0, s, Nat.zero_le _, rfl, hend⟩
    · rw [List.length_nil, Nat.zero_add]
      exact hrest s hs hb hi (hm.resolve_right fun ⟨_, hdue⟩ => by cases hdue)
  | cons e es ih =>
    intro s hs hi hno hm
    rcases hs.ended_or_busy with hend | hb
    · exact ⟨0, s, Nat.zero_le _, rfl, hend⟩
    · obtain ⟨t, ht⟩ := step_next_of_inSpec s hs.inSpec
      have hevent := ht
      rw [step_input s e (es ++ rest) hs.inSpec hi] at hevent
      have hs' : OnTrack { s with inputs := es ++ rest } := ⟨hs.inSpec, hs.notIdle, hs.owed⟩
      obtain ⟨hidle, hti, hprogress⟩ := fetchEvent_progress e { s with inputs := es ++ rest } t hs' hb
        (hno e (.head _)) hevent
      have hleft : stepsLeft { s with inputs := es ++ rest } = stepsLeft s := rfl
      rw [hleft] at hprogress
      have htail := ih t (hs.step ht hidle) hti fun e he => hno e (.tail _ he)
      rw [List.length_cons, Nat.add_right_comm]
      refine .after_step ht (htail ?_)
      rcases hprogress with hlt | ⟨heq, hstate, hdue⟩
      · exact .inl (by omega)
      · rw [heq, hstate]
        exact hm.imp_right fun ⟨hm, hmem⟩ => ⟨hm, (List.mem_cons.1 hmem).resolve_left hdue⟩

theorem OnTrack.endsWithin_rounds (rest : List Event) (rounds : List (List Event)) :
    ∀ s : State, OnTrack s → s.h.state.busy → (∀ r ∈ rounds, fairRound r) → s.inputs = rounds.flatten ++ rest →
      stepsLeft s ≤ rounds.length → EndsWithin rounds.flatten.length s := by
  induction rounds with
  | nil =>
    intro s _ hb _ _ hle
    have hpos := hostSteps_pos hb
    simp only [stepsLeft, List.length_nil] at hle
    omega
  | cons r rounds ih =>
    intro s hs hb hfair hi hle
    have hr := hfair r (.head _)
    rw [List.flatten_cons, List.append_assoc] at hi
    rw [List.flatten_cons, List.length_append]
    refine OnTrack.endsWithin_stretch (stepsLeft s) _ (rounds.flatten ++ rest) (fun t ht htb hti hlt => ?_) r s hs hi
      (fairRound_noReset r hr) (.inr ⟨rfl, fairRound_due r hr _⟩)
    rw [List.length_cons] at hle
    exact ih t ht htb (fun r hr => hfair r (.tail _ hr)) hti (by omega)

/-- Settles O56: at most eight steps are left, and each fair stretch takes at least one of them. -/
theorem fairInputsEndTheTransaction : Obligations.FairInputsEndTheTransaction := by
  intro s rounds rest h hb hd hlen hfair hi
  exact OnTrack.endsWithin_rounds rest rounds s (.of_busy h hb hd) hb hfair hi (hlen ▸ stepsLeft_le s)

end Sys2Proof.Proofs.Liveness
end

section
/-! SUPPORT. Proofs of the statements on memory and the bus, part 5: whether the response read is the one to this
request (R172). -/

namespace Sys2Proof.Proofs.Freshness

open Sys2Proof.Machine Sys2Proof.Laws Sys2Proof.Proofs.Scope Sys2Proof.Proofs.Instances Sys2Proof.Proofs.Invariants
  Sys2Proof.Proofs.Separation Sys2Proof.Proofs.BusSteps Sys2Proof.Proofs.PeriphStates Sys2Proof.Proofs.Liveness

/-- A run goes on from where its first part ended. -/
theorem run_add (m n : Nat) : ∀ {s t : State}, run m s = .next t → run (m + n) s = run n t := by
  induction m with
  | zero => intro s t h; cases h; rw [Nat.zero_add]
  | succ m ih =>
    intro s t h
    rw [Nat.succ_add]
    cases hs : step s with
    | next u => rw [run_next _ s u hs] at h ⊢; exact ih h
    | fault f => cases f
    | refused r => simp [run, hs] at h

/-! A whole `OK` response in the read buffer ends the transaction in DONE (R136, R137). -/

/-- `H` after it has read these `P_L` bytes (R135). -/
def withRead (s : State) (bytes : List Byte) : State :=
  { s with h := { s.h with rxf := bytes, rxn := BitVec.ofNat 8 s.cfg.pL, state := .validating } }

/-- `H` after it has validated an `OK` response with these data. -/
def withOk (s : State) (data : List Byte) : State :=
  setHostState .done (keepResponse 0x80 data s)

theorem exec_ok (s : State) (data : List Byte) (hs : s.h.state = .validating) (hl : data.length = s.cfg.pD) :
    exec (.ok data) s = .next (withOk s data) := by
  refine (exec_status s .ok data).trans (congrArg _ ?_)
  rcases validateStatus_cases s .ok data with ⟨h, -⟩ | ⟨-, h, -⟩ | ⟨-, -, -, h⟩ | ⟨-, -, h, -⟩
  · exact absurd hs h
  · exact absurd hl h
  · exact h
  · exact absurd rfl h

/-- The VALIDATE step on a read buffer that holds an `OK` response. -/
theorem step_validate_ok (s : State) (bytes data : List Byte) (h : (withRead s bytes).inSpec)
    (hlen : bytes.length = s.cfg.pL) (hd : decodeFrame s.cfg .resp bytes = .ok (0x80, data)) :
    (∀ rest, s.inputs = .host :: rest →
      step (withRead s bytes) = .next (withOk { withRead s bytes with inputs := rest } data))
    ∧ (s.inputs = [] → s.p.state = .idle ∨ s.p.state = .receiving →
      step (withRead s bytes) = .next (withOk (withRead s bytes) data)) := by
  have hread : bytes.take (BitVec.ofNat 8 s.cfg.pL).toNat = bytes := by
    rw [pL_toNat s.cfg h.1, ← hlen, List.take_length]
  have hdecode : decodeResponse s.cfg (bytes.take (BitVec.ofNat 8 s.cfg.pL).toNat) = .ok (.ok data) := by
    rw [hread]; exact decodeResponse_of_frame s.cfg bytes .ok data hd
  have hl : data.length = s.cfg.pD := (decodeFrame_ok s.cfg .resp bytes 0x80 data hd).1
  obtain ⟨input, free⟩ := step_validate (withRead s bytes) (.ok data) h rfl hdecode
  exact ⟨fun rest hi => (input rest hi).trans (exec_ok { withRead s bytes with inputs := rest } data rfl hl),
    fun hi hp => (free hi hp).trans (exec_ok (withRead s bytes) data rfl hl)⟩

/-- Settles O58: the draw of the early read is the earlier response. -/
theorem staleResponseCanPassForFresh : Obligations.StaleResponseCanPassForFresh := by
  intro s rest data hb h hi hs hdelay ha hbusy hd
  let d : Draw := ⟨none, false, s.p.txb, [], .pending, true⟩
  have hdrawn : drawnRead s.cfg.pL d = .ok s.p.txb := congrArg Except.ok (fitTo_of_length _ _ hb.txb)
  have hread : step { s with draws := d :: s.draws } = .next (withRead { s with inputs := .host :: rest } s.p.txb) := by
    rw [step_drawnRead (s := { s with draws := d :: s.draws }) h hi hs (.inl hdelay)
      (.inr ⟨ha, not_settled s.p (.inr hbusy)⟩), takeDraw_fixed _ d s.draws rfl, hdrawn]
    rfl
  obtain ⟨validate, -⟩ := step_validate_ok { s with inputs := .host :: rest } s.p.txb data (step_inSpec hread) hb.txb hd
  refine ⟨d, withOk { withRead s s.p.txb with inputs := rest } data, ?_, rfl, rfl, rfl⟩
  rw [run_next 1 _ _ hread, run_next 0 _ _ (validate rest rfl)]
  rfl

/-! The DISPATCH step on a valid `SET_SPEED`, with the reference stub (R107, R125). -/

/-- The data of the response: speed and direction echoed, and zeros after them (R125, R123). -/
def echo (prm : Params) (d0 d1 : Byte) : List Byte :=
  d0 :: d1 :: List.replicate (prm.pD - 2) 0x00

theorem fitTo_pair (prm : Params) (d0 d1 : Byte) (h : legalParams prm = true) :
    fitTo prm.pD [d0, d1] = echo prm d0 d1 := by
  obtain ⟨k, hk⟩ := Nat.exists_eq_add_of_le' ((legalParams_iff prm).1 h).1
  simp [fitTo, echo, zeros, hk]

theorem echo_length (prm : Params) (d0 d1 : Byte) (h : legalParams prm = true) : (echo prm d0 d1).length = prm.pD := by
  rw [← fitTo_pair prm d0 d1 h, fitTo_length]

theorem validArgs_setSpeed (prm : Params) (d0 d1 : Byte) (more : List Byte) (hspeed : d0.toNat ≤ prm.speedMax)
    (hdir : d1.toNat ≤ 1) : validArgs prm .setSpeed (d0 :: d1 :: more) = true := by
  have hd : d1 = 0#8 ∨ d1 = 1#8 := by
    rcases Nat.le_one_iff_eq_zero_or_eq_one.1 hdir with h | h
    · exact .inl (BitVec.eq_of_toNat_eq h)
    · exact .inr (BitVec.eq_of_toNat_eq h)
  simp [validArgs, speedOf, dirOf, dirLegal, hspeed, hd]

theorem actOn_setSpeed (s : State) (d0 d1 : Byte) (more : List Byte) (hl : legalParams s.cfg = true)
    (hstub : s.cfg.actuator = .stub) :
    actOn .setSpeed (d0 :: d1 :: more) s = chooseResponse .ok (echo s.cfg d0 d1) { s with act := ⟨d0, d1⟩ } := by
  have hinvoke : invoke .setSpeed (d0 :: d1 :: more) s = (.ok [d0, d1], { s with act := ⟨d0, d1⟩ }) := by
    simp [invoke, hstub, stubAnswer, stubEffect, speedOf, dirOf]
  rw [actOn, hinvoke, answerStatus, answerData, fitTo_pair s.cfg d0 d1 hl]

/-- A request in the setting of O57: legal arguments in a frame of the right length, under the stub. -/
structure ValidSetSpeed (prm : Params) (d0 d1 : Byte) (more : List Byte) : Prop where
  legal : legalParams prm = true
  stub : prm.actuator = .stub
  length : (d0 :: d1 :: more).length = prm.pD
  speed : d0.toNat ≤ prm.speedMax
  dir : d1.toNat ≤ 1

/-- The DISPATCH step on this request sets the stub and chooses the echo. -/
theorem dispatch_setSpeed {d0 d1 : Byte} {more : List Byte} (s : State) (hv : ValidSetSpeed s.cfg d0 d1 more)
    (hs : s.p.state = .dispatching) (hn : s.p.rxn = s.cfg.pL)
    (hb : s.p.rxb = encodeFrame s.cfg 0x03 (d0 :: d1 :: more)) :
    runFetched (fetchPeriph s) = .next (chooseResponse .ok (echo s.cfg d0 d1) { s with act := ⟨d0, d1⟩ }) := by
  have hframe : s.p.rxb.take s.p.rxn = encodeFrame s.cfg (cmdCode .setSpeed) (d0 :: d1 :: more) := by
    rw [hn, hb, ← encodeFrame_pL s.cfg 0x03 _ hv.length, List.take_length]; rfl
  have hdecode : decodeRequest s.cfg (s.p.rxb.take s.p.rxn) = .ok (Cmd.setSpeed.instr (d0 :: d1 :: more)) := by
    rw [hframe]
    exact decodeRequest_of_frame s.cfg _ .setSpeed _ (decodeFrame_encodeFrame s.cfg .req _ _ hv.length)
  rw [fetchPeriph_decoded s _ hs hn.le hdecode, runFetched, exec_cmd]
  refine congrArg _ ?_
  rcases dispatchCommand_cases s .setSpeed (d0 :: d1 :: more) with ⟨h, -⟩ | ⟨-, h, -⟩ | ⟨-, -, -, h⟩ | ⟨-, -, h, -⟩
  · exact absurd hs h
  · exact absurd hv.length h
  · rw [h, actOn_setSpeed s d0 d1 more hv.legal hv.stub]
  · rw [validArgs_setSpeed s.cfg d0 d1 more hv.speed hv.dir] at h; cases h

/-! Between SEND and READ: WAIT in `H`, DISPATCH and RESPOND in `P`, in every order. -/

/-- How far `P` is with the frame. -/
inductive Answering
  | held
  | chosen
  | committed

/-- The steps of `P` still to come. -/
def Answering.stepsLeft : Answering → Nat
  | .held => 2
  | .chosen => 1
  | .committed => 0

/-- What `P` holds at each point. -/
def AnsweringIn (d0 d1 : Byte) (more : List Byte) (t : State) : Answering → Prop
  | .held => t.p.state = .dispatching ∧ t.p.rxn = t.cfg.pL
      ∧ t.p.rxb = encodeFrame t.cfg 0x03 (d0 :: d1 :: more) ∧ t.link = .owed
  | .chosen => t.p.state = .responding ∧ t.p.rstatus = 0x80 ∧ t.p.rdata = echo t.cfg d0 d1
      ∧ t.act = ⟨d0, d1⟩ ∧ t.link = .owed
  | .committed => t.p.state = .idle ∧ t.p.txbValid = true ∧ t.p.txb = encodeFrame t.cfg 0x80 (echo t.cfg d0 d1)
      ∧ t.act = ⟨d0, d1⟩ ∧ t.link = .answered

/-- The exchange between SEND and READ. -/
structure Exchange (d0 d1 : Byte) (more : List Byte) (t : State) (waited : Bool) (a : Answering) : Prop where
  inSpec : t.inSpec
  noInput : t.inputs = []
  clean : t.cfg.busNoise = false
  delay : t.cfg.delaySufficient = true
  request : ValidSetSpeed t.cfg d0 d1 more
  address : t.h.periphAddr = t.p.ownAddr
  host : t.h.state = if waited then .reading else .waiting
  periph : AnsweringIn d0 d1 more t a

section
variable {d0 d1 : Byte} {more : List Byte} {t u : State} {waited : Bool} {a : Answering}

/-- Using a draw changes nothing of the exchange. -/
theorem Exchange.of_draws (h : Exchange d0 d1 more t waited a) (hu : SameButDraws t u) :
    Exchange d0 d1 more u waited a := by
  unfold SameButDraws at hu
  rw [hu]
  refine ⟨h.inSpec, h.noInput, h.clean, h.delay, h.request, h.address, h.host, ?_⟩
  cases a <;> exact h.periph

theorem Exchange.wait (h : Exchange d0 d1 more t false a) : Exchange d0 d1 more (waitStep t) true a := by
  refine ⟨h.inSpec, h.noInput, h.clean, h.delay, h.request, h.address, rfl, ?_⟩
  cases a <;> exact h.periph

theorem Exchange.dispatch (h : Exchange d0 d1 more t waited .held) :
    Exchange d0 d1 more (chooseResponse .ok (echo t.cfg d0 d1) { t with act := ⟨d0, d1⟩ }) waited .chosen := by
  obtain ⟨-, -, -, hlink⟩ := h.periph
  exact ⟨h.inSpec, h.noInput, h.clean, h.delay, h.request, h.address, h.host, rfl, rfl, rfl, rfl, hlink⟩

theorem Exchange.respond (h : Exchange d0 d1 more t waited .chosen) :
    Exchange d0 d1 more (respondStep t) waited .committed := by
  obtain ⟨-, hstatus, hdata, hact, hlink⟩ := h.periph
  refine ⟨h.inSpec, h.noInput, h.clean, h.delay, h.request, h.address, h.host, rfl, rfl, ?_, hact, ?_⟩
  · rw [respondStep_p, hstatus, hdata, respondStep_cfg]
  · rw [respondStep_link, hlink, linkAnswered]

/-- Once it has waited, `H` reads only after `P` has committed (R57). -/
theorem Exchange.hostEnabled_iff (h : Exchange d0 d1 more t true a) : hostEnabled t = true ↔ a = .committed := by
  have hs : t.h.state = .reading := h.host
  have he : hostEnabled t = readEnabled t := by simp [hostEnabled, hs]
  rw [he]
  cases a with
  | held =>
    obtain ⟨hp, -⟩ := h.periph
    rw [not_readEnabled h.delay (.inr (.inl hp))]; simp
  | chosen =>
    obtain ⟨hp, -⟩ := h.periph
    rw [not_readEnabled h.delay (.inr (.inr hp))]; simp
  | committed =>
    obtain ⟨hp, -, -, -, hl⟩ := h.periph
    simp [readEnabled, hl, (periphListening_iff t.p).2 (.inl hp)]

theorem Exchange.periphEnabled_iff (h : Exchange d0 d1 more t waited a) : periphEnabled t = true ↔ a ≠ .committed := by
  cases a with
  | held | chosen | committed =>
    obtain ⟨hp, -⟩ := h.periph
    simp [periphEnabled, hp]

/-- An enabled step of `H` before the read is WAIT. -/
theorem Exchange.fetchHost (h : Exchange d0 d1 more u false a) : fetchHost u = .effect (waitStep u) := by
  have hs : u.h.state = .waiting := h.host
  simp [Machine.fetchHost, hs]

/-- A step of `P` before the commit takes the answer on. -/
theorem Exchange.fetchPeriph (h : Exchange d0 d1 more u waited a) (ha : a ≠ .committed) :
    ∃ v a', runFetched (fetchPeriph u) = .next v ∧ Exchange d0 d1 more v waited a'
      ∧ a'.stepsLeft + 1 = a.stepsLeft := by
  cases a with
  | held =>
    obtain ⟨hp, hn, hb, -⟩ := h.periph
    exact ⟨_, .chosen, dispatch_setSpeed u h.request hp hn hb, h.dispatch, rfl⟩
  | chosen =>
    obtain ⟨hp, -⟩ := h.periph
    exact ⟨_, .committed, by simp only [Machine.fetchPeriph, hp, runFetched], h.respond, rfl⟩
  | committed => exact absurd rfl ha

/-- The steps of both instances before the read. -/
def beforeRead (waited : Bool) (a : Answering) : Nat :=
  (if waited then 0 else 1) + a.stepsLeft

/-- Whether `H` moves or `P`, one step of the exchange is taken. -/
theorem Exchange.step (h : Exchange d0 d1 more t waited a) (hleft : beforeRead waited a ≠ 0) :
    ∃ v w a', Machine.step t = .next v ∧ Exchange d0 d1 more v w a' ∧ beforeRead w a' + 1 = beforeRead waited a := by
  obtain ⟨v, hv⟩ := step_next_of_inSpec t h.inSpec
  have hfree := hv
  rw [step_free t h.inSpec h.noInput] at hfree
  obtain ⟨u, hu, hcases⟩ := fetchFree_cases t v hfree
  have hexchange := h.of_draws hu
  rcases hcases with ⟨he, hmove⟩ | ⟨he, hmove⟩ | ⟨hhost, hperiph, -⟩
  · cases waited with
    | false =>
      rw [hexchange.fetchHost] at hmove
      cases hmove
      exact ⟨_, true, a, hv, hexchange.wait, by simp [beforeRead, Nat.add_comm]⟩
    | true => rw [h.hostEnabled_iff.1 he] at hleft; exact absurd rfl hleft
  · obtain ⟨v', a', hv', hnext, hcount⟩ := hexchange.fetchPeriph (h.periphEnabled_iff.1 he)
    cases hv'.symm.trans hmove
    exact ⟨_, waited, a', hv, hnext, by rw [beforeRead, beforeRead, Nat.add_assoc, hcount]⟩
  · have ha : a = .committed := by
      by_contra hne
      rw [h.periphEnabled_iff.2 hne] at hperiph; cases hperiph
    cases waited with
    | false => simp [hostEnabled, h.host] at hhost
    | true => rw [h.hostEnabled_iff.2 ha] at hhost; cases hhost

theorem beforeRead_eq_zero (h : beforeRead waited a = 0) : waited = true ∧ a = .committed := by
  cases waited <;> cases a <;> simp [beforeRead, Answering.stepsLeft] at h ⊢

end

/-- After all of them `H` is about to read and `P` has committed. -/
theorem Exchange.run {d0 d1 : Byte} {more : List Byte} (n : Nat) : ∀ {t : State} {waited : Bool} {a : Answering},
    Exchange d0 d1 more t waited a → beforeRead waited a = n →
    ∃ v, Machine.run n t = .next v ∧ v.cfg = t.cfg ∧ Exchange d0 d1 more v true .committed := by
  induction n with
  | zero =>
    intro t waited a h hn
    obtain ⟨rfl, rfl⟩ := beforeRead_eq_zero hn
    exact ⟨t, rfl, rfl, h⟩
  | succ n ih =>
    intro t waited a h hn
    obtain ⟨v, w, a', hv, hnext, hcount⟩ := h.step (by omega)
    obtain ⟨z, hz, hcfg, hdone⟩ := ih hnext (by omega)
    exact ⟨z, by rw [run_next n t v hv, hz], hcfg.trans (step_cfg hv), hdone⟩

/-! The SEND step before, and READ and VALIDATE after. -/

/-- The SEND step of O57 begins the exchange. -/
theorem step_send_exchange {d0 d1 : Byte} {more : List Byte} (s : State) (hb : BufferShapes s) (h : s.inSpec)
    (hi : s.inputs = []) (hn : s.cfg.busNoise = false) (hdelay : s.cfg.delaySufficient = true)
    (hv : ValidSetSpeed s.cfg d0 d1 more) (hs : s.h.state = .sending)
    (ha : s.h.periphAddr = s.p.ownAddr) (hp : s.p.state = .idle)
    (htxf : s.h.txf = encodeFrame s.cfg 0x03 (d0 :: d1 :: more)) :
    ∃ t, step s = .next t ∧ t.cfg = s.cfg ∧ Exchange d0 d1 more t false .held := by
  have hhost : hostEnabled s = true := by simp [hostEnabled, hs]
  have hfetch : fetchHost s = .effect (sendStep s) := by simp [fetchHost, hs]
  have hstep : step s = .next (sendStep s) := by
    rw [step_free s h hi, fetchFree_host s hhost (periphEnabled_of_listening s (.inl hp)), hfetch, runFetched]
  have hspec := step_inSpec hstep
  obtain ⟨cuts, ds, n, hsend, -⟩ := sendStep_clean s hn ha
  obtain ⟨o, ho, -⟩ := deliver_frame_to_idle { s with draws := ds, drawCount := n } cuts s.h.txf hp hb.txf hb.rxb
  rw [ho] at hsend
  rw [hsend] at hstep hspec
  exact ⟨_, hstep, rfl, hspec, hi, hn, hdelay, hv, ha, rfl, rfl, rfl, htxf, rfl⟩

/-- The READ and VALIDATE steps after the exchange end in DONE with the echo. -/
theorem Exchange.run_read {d0 d1 : Byte} {more : List Byte} {t : State}
    (h : Exchange d0 d1 more t true .committed) :
    Machine.run 2 t = .next (withOk (withRead t (encodeFrame t.cfg 0x80 (echo t.cfg d0 d1))) (echo t.cfg d0 d1)) := by
  obtain ⟨hp, hvalid, htxb, -, -⟩ := h.periph
  have hs : t.h.state = .reading := h.host
  have hhost : hostEnabled t = true := h.hostEnabled_iff.2 rfl
  have he : readEnabled t = true := by simpa [hostEnabled, hs] using hhost
  have hecho := echo_length t.cfg d0 d1 h.request.legal
  have hread : Machine.step t = .next (withRead t (encodeFrame t.cfg 0x80 (echo t.cfg d0 d1))) := by
    have hbus := busRead_settled t t.cfg.pL h.clean (settled_of_listening t.p hvalid (.inl hp))
    rw [step_free t h.inSpec h.noInput, fetchFree_host t hhost (periphEnabled_of_listening t (.inl hp)),
      Machine.fetchHost, hs]
    simp only [he, if_true, readStep_eq, h.address, hbus, htxb]
    rfl
  have hdecode : decodeFrame t.cfg .resp (encodeFrame t.cfg 0x80 (echo t.cfg d0 d1)) = .ok (0x80, echo t.cfg d0 d1) :=
    decodeFrame_encodeFrame t.cfg .resp _ _ hecho
  obtain ⟨-, validate⟩ := step_validate_ok t _ _ (step_inSpec hread) (encodeFrame_pL _ _ _ hecho) hdecode
  rw [run_next 1 _ _ hread, run_next 0 _ _ (validate h.noInput (.inl hp)), run_zero]

/-- Settles O57: SEND, the exchange in whichever order, then READ and VALIDATE. -/
theorem freshResponseUnderSufficientDelay : Obligations.FreshResponseUnderSufficientDelay := by
  intro s d0 d1 more hb h hi hn _ ⟨hdelay, _⟩ hstub hs ha hp hlen hspeed hdir htxf
  have hv : ValidSetSpeed s.cfg d0 d1 more := ⟨h.1, hstub, hlen, hspeed, hdir⟩
  obtain ⟨t, ht, htcfg, hexchange⟩ := step_send_exchange s hb h hi hn hdelay hv hs ha hp htxf
  obtain ⟨u, hu, hucfg, hcommitted⟩ := Exchange.run 3 hexchange rfl
  obtain ⟨hidle, -, -, hact, -⟩ := hcommitted.periph
  have hcfg : u.cfg = s.cfg := hucfg.trans htcfg
  refine ⟨_, (run_next 5 s t ht).trans ((run_add 3 2 hu).trans hcommitted.run_read), rfl, rfl, rfl, ?_, hact, hidle⟩
  rw [← hcfg]; rfl

end Sys2Proof.Proofs.Freshness
end

section
/-! SUPPORT. Proofs of the statements on the encoding, part 1: the decoder and the encoder are inverse to each other
(R61, R66, R67, R70 to R72, R94). -/

namespace Sys2Proof.Proofs.Encoding

open Sys2Proof.Machine Sys2Proof.Laws

/-! Control words (R69 to R72). -/

/-- A guarded branch of the decoder answers an instruction only past its guard. -/
theorem guarded_ok_iff (refused : Prop) [Decidable refused] (why : IllegalWord) (rest : Except IllegalWord Instr)
    (i : Instr) : (if refused then .error why else rest) = .ok i ↔ ¬ refused ∧ rest = .ok i := by
  by_cases h : refused <;> simp [h]

theorem bareWord_ok_iff (sel : BitVec 4) (imm : Byte) (i j : Instr) :
    bareWord sel imm i = .ok j ↔ sel = 0 ∧ imm = 0 ∧ i = j := by
  rw [bareWord, guarded_ok_iff, guarded_ok_iff, not_not, not_not, Except.ok.injEq]

/-- The word of a well-formed control-word instruction decodes to it, opcode by opcode (R70). -/
theorem decodeWord_of_encode (prm : Params) (i : Instr) (cw : ControlWord) (hwf : i.wellFormed prm = true)
    (hcode : encode prm i = .word cw) : decodeWord prm cw = .ok i := by
  cases i <;> cases hcode
  case crcInit | crcFin | enc | dec | txn | ack | crcUpd => simp [decodeWord, bareWord]
  case reqSet sel imm =>
    have hsel : reqSelLegal prm sel = true := hwf
    simp [decodeWord, hsel]
  case cfgSet sel imm =>
    obtain ⟨hsel, himm⟩ := Bool.and_eq_true_iff.1 hwf
    simp [decodeWord, hsel, himm]
  case rd reg =>
    have hreg : regMapped prm reg = true := hwf
    simp [decodeWord, hreg]

/-- A control word from its opcode and the rest of its fields. -/
theorem packWord_of_op {cw : ControlWord} {n : Nat} (hop : (wordOp cw).toNat = n) :
    packWord (BitVec.ofNat 4 n) (wordSel cw) (wordImm cw) = cw := by
  rw [← hop, BitVec.ofNat_toNat, BitVec.setWidth_eq, packWord_fields]

theorem packWord_of_op_sel {cw : ControlWord} {n : Nat} (hop : (wordOp cw).toNat = n) (hsel : wordSel cw = 0) :
    packWord (BitVec.ofNat 4 n) 0 (wordImm cw) = cw := by
  rw [← hsel, packWord_of_op hop]

theorem packWord_of_bare {cw : ControlWord} {n : Nat} {i j : Instr} (hop : (wordOp cw).toNat = n)
    (h : bareWord (wordSel cw) (wordImm cw) i = .ok j) : i = j ∧ packWord (BitVec.ofNat 4 n) 0 0 = cw := by
  obtain ⟨hsel, himm, hij⟩ := (bareWord_ok_iff _ _ i j).1 h
  refine ⟨hij, ?_⟩
  rw [← himm, packWord_of_op_sel hop hsel]

/-- A word that decodes is the word of a well-formed instruction, opcode by opcode (R70, R71). -/
theorem encode_of_decodeWord (prm : Params) (cw : ControlWord) (i : Instr) (h : decodeWord prm cw = .ok i) :
    encode prm i = .word cw ∧ i.wellFormed prm = true := by
  unfold decodeWord at h
  split at h
  case h_1 hop | h_3 hop | h_5 hop | h_6 hop | h_8 hop | h_9 hop =>
    obtain ⟨rfl, hcw⟩ := packWord_of_bare hop h
    exact ⟨congrArg Code.word hcw, rfl⟩
  case h_2 hop =>
    obtain ⟨hsel, hi⟩ := (guarded_ok_iff _ _ _ i).1 h
    cases hi
    exact ⟨congrArg Code.word (packWord_of_op_sel hop (not_not.1 hsel)), rfl⟩
  case h_4 hop =>
    obtain ⟨hsel, hi⟩ := (guarded_ok_iff _ _ _ i).1 h
    cases hi
    exact ⟨congrArg Code.word (packWord_of_op hop), by simpa [Instr.wellFormed] using hsel⟩
  case h_7 hop =>
    obtain ⟨hsel, h⟩ := (guarded_ok_iff _ _ _ i).1 h
    obtain ⟨himm, hi⟩ := (guarded_ok_iff _ _ _ i).1 h
    cases hi
    exact ⟨congrArg Code.word (packWord_of_op hop), by simpa [Instr.wellFormed] using And.intro hsel himm⟩
  case h_10 hop =>
    obtain ⟨hsel, h⟩ := (guarded_ok_iff _ _ _ i).1 h
    obtain ⟨hreg, hi⟩ := (guarded_ok_iff _ _ _ i).1 h
    cases hi
    exact ⟨congrArg Code.word (packWord_of_op_sel hop (not_not.1 hsel)), by simpa [Instr.wellFormed] using hreg⟩
  case h_11 => cases h

/-! Frames (R61, R66, R67, R94): the commands and the statuses, each as one family. -/

theorem encode_cmd (prm : Params) (c : Cmd) (d : List Byte) :
    encode prm (c.instr d) = .request (encodeFrame prm (cmdCode c) d) := by cases c <;> rfl

theorem encode_status (prm : Params) (st : Status) (d : List Byte) :
    encode prm (st.instr d) = .response (encodeFrame prm (statusCode st) d) := by cases st <;> rfl

theorem wellFormed_cmd (prm : Params) (c : Cmd) (d : List Byte) :
    (c.instr d).wellFormed prm = decide (d.length = prm.pD) := by cases c <;> rfl

theorem wellFormed_status (prm : Params) (st : Status) (d : List Byte) :
    (st.instr d).wellFormed prm = decide (d.length = prm.pD) := by cases st <;> rfl

/-- Every instruction is a control word, the request of a command or the response of a status. -/
theorem instr_kinds (i : Instr) :
    isControlWord i = true ∨ (∃ c d, i = Cmd.instr c d) ∨ ∃ st d, i = Status.instr st d := by
  cases i
  case ping d => exact .inr (.inl ⟨.ping, d, rfl⟩)
  case stop d => exact .inr (.inl ⟨.stop, d, rfl⟩)
  case setSpeed d => exact .inr (.inl ⟨.setSpeed, d, rfl⟩)
  case getStatus d => exact .inr (.inl ⟨.getStatus, d, rfl⟩)
  case ok d => exact .inr (.inr ⟨.ok, d, rfl⟩)
  case errorBadCrc d => exact .inr (.inr ⟨.errorBadCrc, d, rfl⟩)
  case errorUnknownCommand d => exact .inr (.inr ⟨.errorUnknownCommand, d, rfl⟩)
  case errorBusy d => exact .inr (.inr ⟨.errorBusy, d, rfl⟩)
  case errorOutOfRange d => exact .inr (.inr ⟨.errorOutOfRange, d, rfl⟩)
  case errorDomain d => exact .inr (.inr ⟨.errorDomain, d, rfl⟩)
  case errorBadLength d => exact .inr (.inr ⟨.errorBadLength, d, rfl⟩)
  all_goals exact .inl rfl

theorem encode_isWord (prm : Params) (i : Instr) (h : isControlWord i = true) : ∃ cw, encode prm i = .word cw := by
  cases i
  case crcInit | crcUpd | crcFin | reqSet | enc | dec | cfgSet | txn | ack | rd => exact ⟨_, rfl⟩
  all_goals cases h

theorem decodeRequest_encodeFrame (prm : Params) (c : Cmd) (d : List Byte) (hd : d.length = prm.pD) :
    decodeRequest prm (encodeFrame prm (cmdCode c) d) = .ok (c.instr d) := by
  apply decodeRequest_of_frame
  rw [decodeFrame_encodeFrame prm _ _ d hd]
  simp [codeInSet]

theorem decodeResponse_encodeFrame (prm : Params) (st : Status) (d : List Byte) (hd : d.length = prm.pD) :
    decodeResponse prm (encodeFrame prm (statusCode st) d) = .ok (st.instr d) := by
  apply decodeResponse_of_frame
  rw [decodeFrame_encodeFrame prm _ _ d hd]
  simp [codeInSet]

/-! The decoder of every code. -/

theorem mapError_ok_iff {ε ε' α : Type} (f : ε → ε') (x : Except ε α) (a : α) :
    x.mapError f = .ok a ↔ x = .ok a := by
  cases x <;> simp [Except.mapError]

/-- Settles O1: kind by kind, a control word through its fields and a frame through its parts. -/
theorem decodeOfEncodeIsTheInstruction : Obligations.DecodeOfEncodeIsTheInstruction := by
  intro prm i hwf
  rcases instr_kinds i with hword | ⟨c, d, rfl⟩ | ⟨st, d, rfl⟩
  · obtain ⟨cw, hcode⟩ := encode_isWord prm i hword
    rw [hcode]
    exact (mapError_ok_iff _ _ _).2 (decodeWord_of_encode prm i cw hwf hcode)
  · rw [wellFormed_cmd, decide_eq_true_iff] at hwf
    rw [encode_cmd]
    exact (mapError_ok_iff _ _ _).2 (decodeRequest_encodeFrame prm c d hwf)
  · rw [wellFormed_status, decide_eq_true_iff] at hwf
    rw [encode_status]
    exact (mapError_ok_iff _ _ _).2 (decodeResponse_encodeFrame prm st d hwf)

/-- Settles O2: each of the three decoders answers only on the encoding of a well-formed instruction. -/
theorem encodeOfDecodeIsTheCode : Obligations.EncodeOfDecodeIsTheCode := by
  intro prm c i h
  cases c with
  | word cw => exact encode_of_decodeWord prm cw i ((mapError_ok_iff _ _ _).1 h)
  | request bytes =>
    obtain ⟨cmd, d, rfl, hd, rfl, -⟩ := decodeRequest_ok prm bytes i ((mapError_ok_iff _ _ _).1 h)
    exact ⟨encode_cmd prm cmd d, by rw [wellFormed_cmd, decide_eq_true hd]⟩
  | response bytes =>
    obtain ⟨st, d, rfl, hd, rfl, -⟩ := decodeResponse_ok prm bytes i ((mapError_ok_iff _ _ _).1 h)
    exact ⟨encode_status prm st d, by rw [wellFormed_status, decide_eq_true hd]⟩

/-! Table words (log 10): a word whose code is an instruction's encoding decodes to it. -/

theorem decodeTableWord_of_encode {nbits w : Nat} {i : Instr}
    (hcode : codeOfTableWord nbits w = encode Config.params i) (hwf : i.wellFormed Config.params = true) :
    decodeTableWord nbits w = some i := by
  rw [decodeTableWord, hcode, decodeOfEncodeIsTheInstruction _ i hwf]; rfl

/-- PING with a zero in place of its checksum byte is BadChecksum (R94). -/
theorem decode_ping_zeroChecksum : decode Config.params (codeOfTableWord 32 0x01000000)
    = .error (.badFrame .badChecksum) := by
  have hframe : decodeFrame Config.params .req ((0x01 : Byte) :: [0x00, 0x00] ++ [0x00]) = .error .badChecksum := by
    rw [decodeFrame_parts _ _ _ _ _ rfl, if_pos (by decide +kernel)]
  have hcode : codeOfTableWord 32 0x01000000 = .request ((0x01 : Byte) :: [0x00, 0x00] ++ [0x00]) := by decide
  rw [hcode, decode, (decodeRequest_error _ _ _).2 hframe]; rfl

/-- Settles O7: each accepted word is written out from the encoding of its instruction, checksum byte included. -/
theorem specWordsDecode : Obligations.SpecWordsDecode := by
  refine ⟨?_, ?_, ?_, ?_, ?_, ?_, ?_, ?_, ?_, ?_⟩
  case refine_9 => rw [decodeTableWord, decode_ping_zeroChecksum]; rfl
  all_goals exact decodeTableWord_of_encode (by decide +kernel) (by decide)

end Sys2Proof.Proofs.Encoding
end

section
/-! SUPPORT. Proofs of the statements on the encoding, part 2: the illegal control words (R71), their rejection at
the port (R157), and the words of `CRC.OF` (R74, R87 to R90). -/

namespace Sys2Proof.Proofs.ControlWords

open Sys2Proof.Machine Sys2Proof.Laws Sys2Proof.Proofs.Encoding Sys2Proof.Proofs.ControlRegisters
  Sys2Proof.Proofs.Freshness

/-! The operand conditions of R71 in numbers. -/

theorem not_reqSelLegal_iff (prm : Params) (sel : BitVec 4) :
    (!reqSelLegal prm sel) = true ↔ prm.pD < sel.toNat := by
  simp [reqSelLegal]

theorem not_cfgSelLegal_iff (sel : BitVec 4) : (!cfgSelLegal sel) = true ↔ 2 < sel.toNat := by
  simp [cfgSelLegal]

theorem highBit_iff (b : Byte) : b.getLsbD 7 = true ↔ 128 ≤ b.toNat := by
  have hlt := b.isLt
  rw [BitVec.getLsbD, Nat.testBit_eq_decide_div_mod_eq, decide_eq_true_iff]
  omega

theorem not_cfgImmLegal_iff (sel : BitVec 4) (imm : Byte) :
    (!cfgImmLegal sel imm) = true ↔ sel.toNat = 0 ∧ 128 ≤ imm.toNat := by
  rw [← highBit_iff]
  simp [cfgImmLegal]

theorem not_regMapped_iff (prm : Params) (reg : Byte) : (!regMapped prm reg) = true ↔
    ¬(reg.toNat ≤ 0x0D ∨ (0x10 ≤ reg.toNat ∧ reg.toNat ≤ 0x10 + prm.pD)
      ∨ (0x20 ≤ reg.toNat ∧ reg.toNat < 0x20 + prm.pL) ∨ (0x30 ≤ reg.toNat ∧ reg.toNat < 0x30 + prm.pL)
      ∨ (0x40 ≤ reg.toNat ∧ reg.toNat < 0x40 + prm.pD)) := by
  rw [← regMapped_ofNat prm reg.toNat reg.isLt, BitVec.ofNat_toNat, BitVec.setWidth_eq, Bool.not_eq_true',
    Bool.not_eq_true]

theorem field_ne_zero_iff {w : Nat} (b : BitVec w) : b ≠ 0 ↔ b.toNat ≠ 0 :=
  not_congr BitVec.toNat_inj.symm

/-! Which words the decoder refuses (R71). -/

/-- A guarded branch of the decoder refuses at its guard or behind it. -/
theorem guarded_error_iff (refused : Prop) [Decidable refused] (why : IllegalWord) (rest : Except IllegalWord Instr) :
    (∃ e, (if refused then .error why else rest) = .error e) ↔ refused ∨ ∃ e, rest = .error e := by
  by_cases h : refused <;> simp [h]

theorem guarded_ok_error_iff (refused : Prop) [Decidable refused] (why : IllegalWord) (i : Instr) :
    (∃ e, (if refused then .error why else .ok i) = Except.error e) ↔ refused := by
  rw [guarded_error_iff]; simp

theorem bareWord_error_iff (sel : BitVec 4) (imm : Byte) (i : Instr) :
    (∃ e, bareWord sel imm i = .error e) ↔ sel.toNat ≠ 0 ∨ imm.toNat ≠ 0 := by
  rw [bareWord, guarded_error_iff, guarded_ok_error_iff, field_ne_zero_iff, field_ne_zero_iff]

/-- The decoder refuses exactly the words R71 lists, opcode by opcode. -/
theorem decodeWord_error_iff (prm : Params) (cw : ControlWord) :
    (∃ why, decodeWord prm cw = .error why) ↔ illegalNumber prm cw.toNat := by
  have hlt := (wordOp cw).isLt
  rw [illegalNumber, ← wordOp_toNat, ← wordSel_toNat, ← wordImm_toNat]
  unfold decodeWord
  split
  case h_1 hop | h_3 hop | h_5 hop | h_6 hop | h_8 hop | h_9 hop =>
    rw [bareWord_error_iff]
    simp [hop]
  case h_2 hop =>
    rw [guarded_ok_error_iff, field_ne_zero_iff]
    simp [hop]
  case h_4 hop =>
    rw [guarded_ok_error_iff, not_reqSelLegal_iff]
    simp [hop]
  case h_7 hop =>
    rw [guarded_error_iff, guarded_ok_error_iff, not_cfgSelLegal_iff, not_cfgImmLegal_iff]
    simp [hop]
  case h_10 hop =>
    rw [guarded_error_iff, guarded_ok_error_iff, field_ne_zero_iff, not_regMapped_iff]
    simp [hop]
  case h_11 =>
    have hop : (wordOp cw).toNat = 0 ∨ 0xB ≤ (wordOp cw).toNat := by grind
    exact ⟨fun _ => hop.imp_right .inl, fun _ => ⟨_, rfl⟩⟩

/-! Their rejection at the port (R157). -/

theorem step_illegalWord (s : State) (cw : ControlWord) (rest : List Event) (why : IllegalWord) (hs : s.inSpec)
    (hi : s.inputs = .word cw :: rest) (hd : decodeWord s.cfg cw = .error why) :
    step s = .next (reply .illegalCw 0x00 { s with inputs := rest }) := by
  rw [step_input s _ rest hs hi]
  simp [fetchEvent, fetchWord, hd, runFetched]

/-- Settles O6: the decoder's branches against R71's list, then the port's answer to a word the decoder refuses. -/
theorem illegalWordIsRejected : Obligations.IllegalWordIsRejected := by
  refine ⟨decodeWord_error_iff, fun s cw rest hs hi hillegal => ?_⟩
  obtain ⟨why, hd⟩ := (decodeWord_error_iff s.cfg cw).2 hillegal
  exact step_illegalWord s cw rest why hs hi hd

/-- Settles O22: only `REQ.SET`, `CFG.SET` and `RD` have operands R71 excludes, and each checks them before anything
else. -/
theorem illegalOperandsRejected : Obligations.IllegalOperandsRejected := by
  intro i s hword hill
  cases i
  case reqSet sel imm =>
    have hlegal : reqSelLegal s.cfg sel = false := hill
    rw [exec, execReqSet, hlegal, portOp_illegal]; rfl
  case cfgSet sel imm =>
    have hlegal : (cfgSelLegal sel && cfgImmLegal sel imm) = false := hill
    rw [exec, execCfgSet, hlegal, portOp_illegal]; rfl
  case rd reg =>
    have hlegal : regMapped s.cfg reg = false := hill
    rw [exec, execRd, hlegal]; rfl
  case crcInit | crcUpd | crcFin | enc | dec | txn | ack => cases hill
  all_goals cases hword

/-! The words of `CRC.OF` (R74, R87 to R90). -/

/-- The machine after `n` accepted checksum words that leave this running state and these inputs. -/
def afterCrcWords (n : Nat) (crc : Byte) (rest : List Event) (s : State) : State :=
  { s with
    inputs := rest
    h := { s.h with crc := crc }
    replies := s.replies ++ List.replicate n ⟨.accepted, 0x00⟩ }

@[simp] theorem afterCrcWords_cfg (n : Nat) (crc : Byte) (rest : List Event) (s : State) :
    (afterCrcWords n crc rest s).cfg = s.cfg := rfl
@[simp] theorem afterCrcWords_crc (n : Nat) (crc : Byte) (rest : List Event) (s : State) :
    (afterCrcWords n crc rest s).h.crc = crc := rfl

theorem afterCrcWords_zero (s : State) : afterCrcWords 0 s.h.crc s.inputs s = s := by
  simp [afterCrcWords]

theorem afterCrcWords_afterCrcWords (m n : Nat) (c d : Byte) (more rest : List Event) (s : State) :
    afterCrcWords n d rest (afterCrcWords m c more s) = afterCrcWords (m + n) d rest s := by
  simp [afterCrcWords, ← List.replicate_append_replicate]

/-- A word of an instruction that the port accepts has the instruction's effect and is acknowledged. -/
theorem step_acceptedWord (s : State) (i : Instr) (cw : ControlWord) (effect : State → State) (rest : List Event)
    (hs : s.inSpec) (hr : s.h.state.atRest) (hi : s.inputs = .word cw :: rest) (hwf : i.wellFormed s.cfg = true)
    (hcode : encode s.cfg i = .word cw) (hexec : ∀ u, exec i u = portOp true effect u) :
    step s = .next (reply .accepted 0x00 (effect { s with inputs := rest })) := by
  rw [step_word s cw rest i hs hi (decodeWord_of_encode s.cfg i cw hwf hcode), hexec]
  exact portOp_accepted _ effect hr

theorem step_crcInit (s : State) (rest : List Event) (hs : s.inSpec) (hr : s.h.state.atRest)
    (hi : s.inputs = .word (packWord 0x1 0 0) :: rest) : step s = .next (afterCrcWords 1 s.cfg.crcInit rest s) :=
  step_acceptedWord s .crcInit _ _ rest hs hr hi rfl rfl fun _ => rfl

theorem step_crcUpd (s : State) (b : Byte) (rest : List Event) (hs : s.inSpec) (hr : s.h.state.atRest)
    (hi : s.inputs = .word (packWord 0x2 0 b) :: rest) :
    step s = .next (afterCrcWords 1 (crcUpdate s.cfg s.h.crc b) rest s) :=
  step_acceptedWord s (.crcUpd b) _ _ rest hs hr hi rfl rfl fun _ => rfl

theorem step_crcFin (s : State) (rest : List Event) (hs : s.inSpec) (hr : s.h.state.atRest)
    (hi : s.inputs = .word (packWord 0x3 0 0) :: rest) :
    step s = .next (setResult (s.h.crc ^^^ s.cfg.crcXorout) (afterCrcWords 1 s.h.crc rest s)) :=
  step_acceptedWord s .crcFin _ _ rest hs hr hi rfl rfl fun _ => rfl

/-- A run over the words of `CRC.BYTES` is R78's loop. -/
theorem run_crcBytes (bytes : List Byte) (rest : List Event) : ∀ s : State, s.inSpec → s.h.state.atRest →
    s.inputs = (expandCrcBytes bytes).map .word ++ rest →
    run bytes.length s = .next (afterCrcWords bytes.length (crcRun s.cfg s.h.crc bytes) rest s) := by
  induction bytes with
  | nil =>
    intro s _ _ hi
    rw [← show s.inputs = rest from hi]
    exact congrArg Host.Outcome.next (afterCrcWords_zero s).symm
  | cons b bytes ih =>
    intro s hs hr hi
    rw [List.length_cons, run_next _ s _ (step_crcUpd s b _ hs hr hi), ih _ (by exact hs) (by exact hr) rfl,
      afterCrcWords_afterCrcWords, Nat.add_comm]
    rfl

/-- Settles O12: `CRC.INIT`, a run over the bytes, then `CRC.FIN`. -/
theorem controlWordsComputeTheChecksum : Obligations.ControlWordsComputeTheChecksum := by
  intro s bytes rest hs hr hi
  obtain ⟨last, hlast⟩ : ∃ ws : List Event, ws = .word (packWord 0x3 0 0) :: rest := ⟨_, rfl⟩
  have hwords : s.inputs = .word (packWord 0x1 0 0) :: ((expandCrcBytes bytes).map .word ++ last) := by
    rw [hi, expandCrcOf, hlast]; simp
  have hinit := step_crcInit s _ hs hr hwords
  have hbytes := run_crcBytes bytes last (afterCrcWords 1 s.cfg.crcInit _ s) hs hr rfl
  rw [afterCrcWords_afterCrcWords, afterCrcWords_cfg, afterCrcWords_crc] at hbytes
  have hfin := step_crcFin (afterCrcWords (1 + bytes.length) (crcRun s.cfg s.cfg.crcInit bytes) last s) rest hs hr hlast
  rw [afterCrcWords_afterCrcWords, afterCrcWords_cfg, afterCrcWords_crc] at hfin
  have hcrc : checksum s.cfg bytes ^^^ s.cfg.crcXorout = crcRun s.cfg s.cfg.crcInit bytes := by
    rw [checksum, BitVec.xor_assoc, BitVec.xor_self, BitVec.xor_zero]
  have hcount : bytes.length + 2 = 1 + bytes.length + 1 := by omega
  rw [run_next _ s _ hinit, run_add _ 1 hbytes, run_next 0 _ _ hfin, hcrc, hcount]
  rfl

end Sys2Proof.Proofs.ControlWords
end

section
/-! SUPPORT. Proofs of the statements on the checksum, part 1: the engine's table against the bit-serial register (R76 to
R78, R81), the residue of a sequence followed by its checksum (R85), and the three checksum words (R87 to R89). -/

namespace Sys2Proof.Proofs.Checksum

open Sys2Proof.Machine Sys2Proof.Laws

/-! The zero byte as the model writes it. -/

theorem xor_zeroByte (b : Byte) : b ^^^ 0 = b := BitVec.xor_zero

theorem zeroByte_xor (b : Byte) : 0 ^^^ b = b := BitVec.zero_xor

/-! The bit-serial steps: linear over XOR, and what they do with the bit that leaves. -/

theorem subtract_xor (generator : Byte) (a b : Bool) :
    (if Bool.xor a b then generator else 0) = (if a then generator else 0) ^^^ (if b then generator else 0) := by
  cases a <;> cases b <;> simp

theorem serialStep_xor (prm : Params) (c d : Byte) (a b : Bool) :
    serialStep prm (c ^^^ d) (Bool.xor a b) = serialStep prm c a ^^^ serialStep prm d b := by
  simp only [serialStep, subtract_xor, BitVec.getLsbD_xor, BitVec.shiftLeft_xor_distrib]
  ac_rfl

theorem serialStepLow_xor (rpoly c d : Byte) (a b : Bool) :
    serialStepLow rpoly (c ^^^ d) (Bool.xor a b) = serialStepLow rpoly c a ^^^ serialStepLow rpoly d b := by
  simp only [serialStepLow, subtract_xor, BitVec.getLsbD_xor, BitVec.ushiftRight_xor_distrib]
  ac_rfl

/-- A message bit equal to the bit that leaves cancels it. -/
theorem serialStep_leavingBit (prm : Params) (c : Byte) : serialStep prm c (c.getLsbD 7) = c <<< 1 := by
  simp [serialStep]

theorem serialStepLow_leavingBit (rpoly c : Byte) : serialStepLow rpoly c (c.getLsbD 0) = c >>> 1 := by
  simp [serialStepLow]

/-! R76's shift step is the serial step on a zero message bit. -/

theorem shiftStep_unreflected {prm : Params} (hr : prm.crcReflect = false) (c : Byte) :
    shiftStep prm c = serialStep prm c false := by
  cases hbit : c.getLsbD 7 <;> simp only [shiftStep, serialStep, hr, hbit] <;> simp

theorem shiftStep_reflected {prm : Params} (hr : prm.crcReflect = true) (c : Byte) :
    shiftStep prm c = serialStepLow prm.crcPoly.reverse c false := by
  cases hbit : c.getLsbD 0 <;> simp only [shiftStep, serialStepLow, hr, hbit] <;> simp

/-- With a message byte XORed into the register beforehand, a shift step takes the byte's first bit from it as a serial
step does, and the rest of the byte moves up. -/
theorem shiftStep_preloaded {prm : Params} (hr : prm.crcReflect = false) (c b : Byte) :
    shiftStep prm (c ^^^ b) = serialStep prm c (b.getLsbD 7) ^^^ b <<< 1 := by
  rw [shiftStep_unreflected hr, ← serialStep_leavingBit prm b, ← serialStep_xor, Bool.xor_self]

theorem shiftStep_preloaded_reflected {prm : Params} (hr : prm.crcReflect = true) (c b : Byte) :
    shiftStep prm (c ^^^ b) = serialStepLow prm.crcPoly.reverse c (b.getLsbD 0) ^^^ b >>> 1 := by
  rw [shiftStep_reflected hr, ← serialStepLow_leavingBit prm.crcPoly.reverse b, ← serialStepLow_xor, Bool.xor_self]

/-! The table entry (R76) and the table (R37). -/

theorem tableEntry_eq (prm : Params) (i : Byte) : tableEntry prm i
    = shiftStep prm (shiftStep prm (shiftStep prm (shiftStep prm
        (shiftStep prm (shiftStep prm (shiftStep prm (shiftStep prm i))))))) := rfl

/-- Eight shift steps take a preloaded byte bit by bit, and nothing of it is left. -/
theorem tableEntry_unreflected {prm : Params} (hr : prm.crcReflect = false) (c b : Byte) :
    tableEntry prm (c ^^^ b) = (bitsOf b).foldl (serialStep prm) c := by
  have hgone : b <<< 8 = 0 := BitVec.shiftLeft_eq_zero (Nat.le_refl 8)
  simp [tableEntry_eq, bitsOf, shiftStep_preloaded hr, ← BitVec.shiftLeft_add, hgone]

theorem tableEntry_reflected {prm : Params} (hr : prm.crcReflect = true) (c b : Byte) :
    tableEntry prm (c ^^^ b) = (bitsOf b).reverse.foldl (serialStepLow prm.crcPoly.reverse) c := by
  have hgone : b >>> 8 = 0 := BitVec.ushiftRight_eq_zero (Nat.le_refl 8)
  simp [tableEntry_eq, bitsOf, shiftStep_preloaded_reflected hr, ← BitVec.shiftRight_add, hgone]

theorem crcTable_getD (prm : Params) (i : Byte) : (crcTable prm).getD i.toNat 0 = tableEntry prm i := by
  simp [crcTable, List.getD_eq_getElem?_getD, i.isLt]

/-! The running state over a sequence (R78). -/

/-- A run in which every byte's update is a fold over the byte's bits is the fold over all the bits. -/
theorem crcRun_eq_foldl {prm : Params} {bits : Byte → List Bool} {serial : Byte → Bool → Byte}
    (hupdate : ∀ c b, crcUpdate prm c b = (bits b).foldl serial c) (c : Byte) (bytes : List Byte) :
    crcRun prm c bytes = (bytes.flatMap bits).foldl serial c := by
  rw [List.foldl_flatMap, crcRun]
  congr 1
  funext c b
  exact hupdate c b

theorem crcRun_unreflected {prm : Params} (hr : prm.crcReflect = false) (c : Byte) (bytes : List Byte) :
    crcRun prm c bytes = (bytes.flatMap bitsOf).foldl (serialStep prm) c :=
  crcRun_eq_foldl (tableEntry_unreflected hr) c bytes

theorem crcRun_reflected {prm : Params} (hr : prm.crcReflect = true) (c : Byte) (bytes : List Byte) :
    crcRun prm c bytes
      = (bytes.flatMap fun b => (bitsOf b).reverse).foldl (serialStepLow prm.crcPoly.reverse) c :=
  crcRun_eq_foldl (tableEntry_reflected hr) c bytes

theorem crcRun_append (prm : Params) (c : Byte) (xs ys : List Byte) :
    crcRun prm c (xs ++ ys) = crcRun prm (crcRun prm c xs) ys :=
  List.foldl_append

theorem crcRun_concat (prm : Params) (c b : Byte) (xs : List Byte) :
    crcRun prm c (xs ++ [b]) = tableEntry prm (crcRun prm c xs ^^^ b) :=
  crcRun_append prm c xs [b]

/-! A zero register stays zero over zero bits (R76). -/

theorem shiftStep_zero (prm : Params) : shiftStep prm 0 = 0 := by
  simp [shiftStep]

theorem tableEntry_zero (prm : Params) : tableEntry prm 0 = 0 :=
  Function.iterate_fixed (shiftStep_zero prm) 8

/-- The generator described bit by bit in O11 is the reversed one. -/
theorem reverse_eq_of_bits {poly rpoly : Byte} (h : ∀ j, j < 8 → rpoly.getLsbD j = poly.getLsbD (7 - j)) :
    poly.reverse = rpoly := by
  apply BitVec.eq_of_getLsbD_eq
  intro j hj
  rw [h j hj, BitVec.getLsbD_reverse, BitVec.getMsbD_eq_getLsbD, decide_eq_true hj, Bool.true_and]

/-- Settles O11: eight shift steps of the table are eight serial steps on the byte's bits, then byte by byte. -/
theorem tableChecksumIsBitSerial : Obligations.TableChecksumIsBitSerial := by
  refine fun prm bytes => ⟨fun hr => ?_, fun rpoly hr hbits => ?_⟩
  · rw [checksum, crcRun_unreflected hr]
  · rw [checksum, crcRun_reflected hr, reverse_eq_of_bits hbits]

/-- Settles O10: without a final XOR the last byte cancels the register, and `T[0]` is zero. -/
theorem validFrameHasZeroResidue : Obligations.ValidFrameHasZeroResidue := by
  intro prm body _ hx
  have hfinal : ∀ bytes, checksum prm bytes = crcRun prm prm.crcInit bytes := fun bytes => by
    rw [checksum, hx, xor_zeroByte]
  rw [hfinal, hfinal, crcRun_concat, BitVec.xor_self]
  exact tableEntry_zero prm

/-- Settles O13: the port accepts each of the three words (R157), and `crcUpdate` reads the table. -/
theorem checksumOperationsResult : Obligations.ChecksumOperationsResult := by
  intro s imm hr
  rw [crcTable_getD]
  refine ⟨?_, ?_, ?_⟩
  · rw [exec, execCrcInit, portOp_accepted s _ hr]; rfl
  · rw [exec, execCrcUpd, portOp_accepted s _ hr]; rfl
  · rw [exec, execCrcFin, portOp_accepted s _ hr]; rfl

end Sys2Proof.Proofs.Checksum
end

section
/-! SUPPORT. Proofs of the statements on the checksum, part 2: which error patterns the default generator
x^8 + x^2 + x + 1 detects (R86). A pattern goes undetected exactly when its own run from a zero register ends in zero;
the factor x + 1 keeps the parity of the register, and the constant term keeps a nonzero register nonzero. -/

namespace Sys2Proof.Proofs.ErrorDetection

open Sys2Proof.Machine Sys2Proof.Laws Sys2Proof.Proofs.Checksum Sys2Proof.Proofs.ControlWords

variable {prm : Params}

/-! The run is linear over XOR, so an error pattern acts on the register by itself. -/

theorem shiftStep_xor (hr : prm.crcReflect = false) (c d : Byte) :
    shiftStep prm (c ^^^ d) = shiftStep prm c ^^^ shiftStep prm d := by
  simp only [shiftStep_unreflected hr, ← serialStep_xor, Bool.xor_self]

theorem tableEntry_xor (hr : prm.crcReflect = false) (c d : Byte) :
    tableEntry prm (c ^^^ d) = tableEntry prm c ^^^ tableEntry prm d := by
  simp only [tableEntry_eq, shiftStep_xor hr]

theorem crcRun_corrupt (hr : prm.crcReflect = false) : ∀ (xs ys : List Byte), xs.length = ys.length → ∀ c d : Byte,
    crcRun prm (c ^^^ d) (corrupt xs ys) = crcRun prm c xs ^^^ crcRun prm d ys
  | [], [], _, _, _ => rfl
  | x :: xs, y :: ys, hlen, c, d => by
    have hupdate : crcUpdate prm (c ^^^ d) (x ^^^ y) = crcUpdate prm c x ^^^ crcUpdate prm d y := by
      rw [crcUpdate, crcUpdate, crcUpdate, ← tableEntry_xor hr]
      congr 1
      ac_rfl
    exact (congrArg (fun e => crcRun prm e (corrupt xs ys)) hupdate).trans
      (crcRun_corrupt hr xs ys (Nat.succ.inj hlen) _ _)

/-! The constant term: a nonzero register stays nonzero. -/

theorem shiftStep_default (hg : defaultGenerator prm) (c : Byte) :
    shiftStep prm c = c <<< 1 ^^^ (if c.getLsbD 7 then 0x07 else 0) := by
  rw [shiftStep_unreflected hg.2, serialStep, hg.1, Bool.xor_false]

theorem shiftStep_constantTerm (hg : defaultGenerator prm) (c : Byte) :
    (shiftStep prm c).getLsbD 0 = c.getLsbD 7 := by
  rw [shiftStep_default hg, BitVec.getLsbD_xor]
  cases c.getLsbD 7 <;> simp

theorem shiftStep_eq_zero_iff (hg : defaultGenerator prm) (c : Byte) : shiftStep prm c = 0 ↔ c = 0 := by
  refine ⟨fun h => ?_, fun h => by rw [h, shiftStep_zero]⟩
  have hbit : c.getLsbD 7 = false := by rw [← shiftStep_constantTerm hg, h]; rfl
  have hsmall : ¬ 128 ≤ c.toNat := by rw [← highBit_iff, hbit]; exact Bool.false_ne_true
  have hshift : c <<< 1 = 0 := by
    rwa [shiftStep_default hg, hbit, if_neg Bool.false_ne_true, xor_zeroByte] at h
  bv_omega

theorem tableEntry_eq_zero_iff (hg : defaultGenerator prm) (c : Byte) : tableEntry prm c = 0 ↔ c = 0 := by
  simp only [tableEntry_eq, shiftStep_eq_zero_iff hg]

theorem foldl_zeroBits_eq_zero_iff (hg : defaultGenerator prm) (k : Nat) (c : Byte) :
    (List.replicate k false).foldl (serialStep prm) c = 0 ↔ c = 0 := by
  induction k generalizing c with
  | zero => rfl
  | succ k ih =>
    rw [List.replicate_succ, List.foldl_cons, ih, ← shiftStep_unreflected hg.2, shiftStep_eq_zero_iff hg]

/-! The comparison of R94 on a frame in parts. -/

theorem passesChecksum_concat {body : List Byte} (hlen : body.length = prm.pL - 1) (last : Byte) :
    passesChecksum prm (body ++ [last]) ↔ checksum prm body = last := by
  simp [passesChecksum, ← hlen]

/-- A frame or a pattern of `P_L` bytes is its first `P_L - 1` bytes and its last one (R61). -/
theorem exists_concat_of_length {bytes : List Byte} (h : bytes.length = prm.pL) :
    ∃ body last, bytes = body ++ [last] ∧ body.length = prm.pL - 1 := by
  have hne : bytes ≠ [] := by
    rintro rfl
    cases h
  refine ⟨bytes.dropLast, bytes.getLast hne, (List.dropLast_append_getLast hne).symm, ?_⟩
  rw [List.length_dropLast, h]

/-- A corrupted frame passes exactly when the error pattern, run from a zero register, leaves zero. -/
theorem passesChecksum_corrupt_iff (hg : defaultGenerator prm) {frame pattern : List Byte}
    (hf : frame.length = prm.pL) (hp : pattern.length = prm.pL) (hpass : passesChecksum prm frame) :
    passesChecksum prm (corrupt frame pattern) ↔ crcRun prm 0 pattern = 0 := by
  obtain ⟨body, last, rfl, hbody⟩ := exists_concat_of_length hf
  obtain ⟨flips, lastFlips, rfl, hflips⟩ := exists_concat_of_length hp
  have hlen : body.length = flips.length := hbody.trans hflips.symm
  have hcorrupt : corrupt (body ++ [last]) (flips ++ [lastFlips]) = corrupt body flips ++ [last ^^^ lastFlips] :=
    List.zipWith_append hlen
  have hsum : checksum prm (corrupt body flips) = checksum prm body ^^^ crcRun prm 0 flips := by
    have hrun := crcRun_corrupt hg.2 body flips hlen prm.crcInit 0
    rw [xor_zeroByte] at hrun
    rw [checksum, checksum, hrun]
    ac_rfl
  have hpass := (passesChecksum_concat hbody last).1 hpass
  rw [hcorrupt, passesChecksum_concat (by simp [corrupt, hbody, hflips]), hsum, hpass, BitVec.xor_right_inj,
    crcRun_concat, tableEntry_eq_zero_iff hg]
  exact BitVec.xor_eq_zero_iff.symm

/-! The factor x + 1: the register's parity is that of the bits taken. -/

theorem byteWeight_zero : byteWeight 0 = 0 := rfl

theorem byteWeight_eq (b : Byte) : byteWeight b
    = (b.getLsbD 0).toNat + (b.getLsbD 1).toNat + (b.getLsbD 2).toNat + (b.getLsbD 3).toNat
      + (b.getLsbD 4).toNat + (b.getLsbD 5).toNat + (b.getLsbD 6).toNat + (b.getLsbD 7).toNat := by
  simp [byteWeight, List.range_succ, Nat.add_assoc]

theorem toNat_xor_add_and (a b : Bool) : (Bool.xor a b).toNat + 2 * (a && b).toNat = a.toNat + b.toNat := by
  cases a <;> cases b <;> rfl

theorem byteWeight_xor (a b : Byte) : byteWeight (a ^^^ b) ≡ byteWeight a + byteWeight b [MOD 2] := by
  have hsum : byteWeight (a ^^^ b) + 2 * byteWeight (a &&& b) = byteWeight a + byteWeight b := by
    simp only [byteWeight, ← List.sum_map_mul_left, ← List.sum_map_add, BitVec.getLsbD_xor, BitVec.getLsbD_and,
      toNat_xor_add_and]
  rw [← hsum]
  simp [Nat.ModEq]

theorem byteWeight_shiftLeft (c : Byte) : byteWeight (c <<< 1) + (c.getLsbD 7).toNat = byteWeight c := by
  simp [byteWeight_eq]

/-- The generator has four terms: what a step adds has the parity of the bit that leaves. -/
theorem byteWeight_shiftStep (hg : defaultGenerator prm) (c : Byte) :
    byteWeight (shiftStep prm c) ≡ byteWeight c [MOD 2] := by
  have hterms : byteWeight (if c.getLsbD 7 then 0x07 else 0) ≡ (c.getLsbD 7).toNat [MOD 2] := by
    cases c.getLsbD 7 <;> decide
  rw [shiftStep_default hg, ← byteWeight_shiftLeft c]
  exact (byteWeight_xor _ _).trans (hterms.add_left _)

theorem byteWeight_tableEntry (hg : defaultGenerator prm) (c : Byte) :
    byteWeight (tableEntry prm c) ≡ byteWeight c [MOD 2] := by
  have hstep : ∀ d, byteWeight (shiftStep prm d) % 2 = byteWeight d % 2 := byteWeight_shiftStep hg
  simp only [Nat.ModEq, tableEntry_eq, hstep]

theorem byteWeight_crcRun (hg : defaultGenerator prm) (bytes : List Byte) (c : Byte) :
    byteWeight (crcRun prm c bytes) ≡ byteWeight c + patternWeight bytes [MOD 2] := by
  induction bytes generalizing c with
  | nil => rfl
  | cons b bytes ih =>
    have hupdate : byteWeight (crcUpdate prm c b) ≡ byteWeight c + byteWeight b [MOD 2] :=
      (byteWeight_tableEntry hg _).trans (byteWeight_xor c b)
    calc byteWeight (crcRun prm (crcUpdate prm c b) bytes)
      _ ≡ byteWeight (crcUpdate prm c b) + patternWeight bytes [MOD 2] := ih _
      _ ≡ byteWeight c + byteWeight b + patternWeight bytes [MOD 2] := hupdate.add_right _
      _ = byteWeight c + patternWeight (b :: bytes) := Nat.add_assoc _ _ _

theorem crcRun_ne_zero_of_odd (hg : defaultGenerator prm) {pattern : List Byte} (hodd : patternWeight pattern % 2 = 1) :
    crcRun prm 0 pattern ≠ 0 := by
  intro hzero
  have hparity := byteWeight_crcRun hg pattern 0
  rw [hzero, byteWeight_zero, Nat.zero_add, Nat.ModEq, hodd] at hparity
  cases hparity

/-! One flipped bit is an odd number of them. -/

theorem patternWeight_append (xs ys : List Byte) : patternWeight (xs ++ ys) = patternWeight xs + patternWeight ys := by
  simp [patternWeight]

theorem patternWeight_zeros (n : Nat) : patternWeight (zeros n) = 0 := by
  rw [patternWeight, zeros, List.map_replicate, byteWeight_zero, List.sum_replicate, smul_zero]

theorem byteWeight_bit {j : Nat} (hj : j < 8) : byteWeight (1#8 <<< j) = 1 := by
  revert j
  decide

theorem patternWeight_oneBit {len k : Nat} (hk : k < 8 * len) : patternWeight (oneBit len k) = 1 := by
  have hi : k / 8 < (zeros len).length := by rw [zeros_length]; omega
  have hparts : oneBit len k = zeros (k / 8) ++ [1#8 <<< (k % 8)] ++ zeros (len - (k / 8 + 1)) := by
    rw [zeros_length] at hi
    simp [oneBit, zeros, List.set_eq_take_append_cons_drop, hi, Nat.min_eq_left hi.le]
  rw [hparts, patternWeight_append, patternWeight_append, patternWeight_zeros, patternWeight_zeros]
  simp [patternWeight, byteWeight_bit (Nat.mod_lt k (by decide : 8 > 0))]

/-! Bursts: the bits of the pattern in the order the checksum takes them. -/

theorem exists_byte_of_bits {bits : List Bool} (h : bits.length = 8) : ∃ b : Byte, bits = bitsOf b := by
  match bits, h with
  | [b7, b6, b5, b4, b3, b2, b1, b0], _ =>
    exact ⟨BitVec.ofBoolListBE [b7, b6, b5, b4, b3, b2, b1, b0], by
      simp [bitsOf, BitVec.ofBoolListBE, BitVec.getElem_cons]⟩

theorem bitsOf_length (b : Byte) : (bitsOf b).length = 8 := rfl

theorem bitsOf_zero : bitsOf 0 = List.replicate 8 false := rfl

theorem getD_bitsOf (b : Byte) {j : Nat} (hj : j < 8) : (bitsOf b).getD (7 - j) false = b.getLsbD j := by
  interval_cases j <;> rfl

/-- Bit `j` of byte `i` stands at position `8 * i + (7 - j)`. -/
theorem getD_flatMap_bitsOf (pattern : List Byte) (i : Nat) {j : Nat} (hj : j < 8) :
    (pattern.flatMap bitsOf).getD (8 * i + (7 - j)) false = (pattern.getD i 0).getLsbD j := by
  induction pattern generalizing i with
  | nil => simp
  | cons b bytes ih =>
    rw [List.flatMap_cons]
    cases i with
    | zero =>
      rw [List.getD_append _ _ _ _ (by rw [bitsOf_length]; omega), Nat.mul_zero, Nat.zero_add, getD_bitsOf b hj]
      rfl
    | succ i =>
      rw [List.getD_append_right _ _ _ _ (by rw [bitsOf_length]; omega), bitsOf_length, List.getD_cons_succ, ← ih i]
      congr 1
      omega

theorem eq_replicate_of_getD {bits : List Bool} (h : ∀ p, bits.getD p false = false) :
    bits = List.replicate bits.length false := by
  refine List.eq_replicate_iff.2 ⟨rfl, fun b hb => ?_⟩
  obtain ⟨p, hp, rfl⟩ := List.getElem_of_mem hb
  rw [← h p, List.getD_eq_getElem _ _ hp]

/-- A window that reaches past the end moves back inside and still holds every set bit. -/
theorem window_moves_inside {bits : List Bool} {n : Nat} (hlen : 8 ≤ bits.length)
    (hburst : ∀ p, bits.getD p false = true → n ≤ p ∧ p < n + 8) :
    ∃ m, m + 8 ≤ bits.length ∧ ∀ p, bits.getD p false = true → m ≤ p ∧ p < m + 8 := by
  refine ⟨min n (bits.length - 8), by omega, fun p hbit => ?_⟩
  have hwindow := hburst p hbit
  have hp : p < bits.length := by
    by_contra hpast
    rw [List.getD_eq_default _ _ (Nat.le_of_not_lt hpast)] at hbit
    cases hbit
  omega

/-- Bits set only within eight positions are a byte between zero bits. -/
theorem window_of_burst {bits : List Bool} {n : Nat} (hlen : 8 ≤ bits.length)
    (hburst : ∀ p, bits.getD p false = true → n ≤ p ∧ p < n + 8) :
    ∃ m b k, bits = List.replicate m false ++ bitsOf b ++ List.replicate k false := by
  obtain ⟨m, hm, hin⟩ := window_moves_inside hlen hburst
  have hout : ∀ p, p < m ∨ m + 8 ≤ p → bits.getD p false = false := fun p hp =>
    Bool.eq_false_iff.2 fun htrue => by have hwindow := hin p htrue; omega
  have hbefore : ∀ p, (bits.take m).getD p false = false := fun p => by
    rw [List.getD_eq_getElem?_getD, List.getElem?_take]
    split
    · exact hout p (.inl ‹p < m›)
    · rfl
  have hafter : ∀ p, (bits.drop (m + 8)).getD p false = false := fun p => by
    rw [List.getD_eq_getElem?_getD, List.getElem?_drop]
    exact hout _ (.inr (Nat.le_add_right _ _))
  obtain ⟨b, hb⟩ := exists_byte_of_bits (bits := (bits.drop m).take 8) (by simp; omega)
  refine ⟨(bits.take m).length, b, (bits.drop (m + 8)).length, ?_⟩
  rw [← hb, ← eq_replicate_of_getD hbefore, ← eq_replicate_of_getD hafter, List.append_assoc, ← List.drop_drop,
    List.take_append_drop, List.take_append_drop]

/-- A byte between zero bits leaves zero in the register only when it is zero. -/
theorem foldl_window_eq_zero_iff (hg : defaultGenerator prm) (m k : Nat) (b : Byte) :
    (List.replicate m false ++ bitsOf b ++ List.replicate k false).foldl (serialStep prm) 0 = 0 ↔ b = 0 := by
  have hprefix : (List.replicate m false).foldl (serialStep prm) 0 = 0 := (foldl_zeroBits_eq_zero_iff hg m 0).2 rfl
  rw [List.foldl_append, List.foldl_append, foldl_zeroBits_eq_zero_iff hg, hprefix, ← tableEntry_unreflected hg.2,
    tableEntry_eq_zero_iff hg, zeroByte_xor]

theorem flatMap_bitsOf_length (pattern : List Byte) : (pattern.flatMap bitsOf).length = 8 * pattern.length := by
  simp [bitsOf_length, Nat.mul_comm]

theorem bitsOf_burst {pattern : List Byte} {n : Nat} (hburst : burstAt pattern n) (p : Nat)
    (hp : (pattern.flatMap bitsOf).getD p false = true) : n ≤ p ∧ p < n + 8 := by
  have hpos : 8 * (p / 8) + (7 - (7 - p % 8)) = p := by omega
  rw [← hpos, getD_flatMap_bitsOf _ _ (by omega)] at hp
  rw [← hpos]
  exact hburst _ _ (by omega) hp

/-- A pattern with no bit set is the zero one. -/
theorem eq_zeros_of_bits {pattern : List Byte} (h : ∀ p, (pattern.flatMap bitsOf).getD p false = false) :
    pattern = zeros pattern.length := by
  refine List.eq_replicate_iff.2 ⟨rfl, fun b hb => ?_⟩
  obtain ⟨i, hi, rfl⟩ := List.getElem_of_mem hb
  apply BitVec.eq_of_getLsbD_eq
  intro j hj
  rw [← List.getD_eq_getElem _ 0 hi, ← getD_flatMap_bitsOf pattern i hj, h]
  exact BitVec.getLsbD_zero.symm

theorem crcRun_ne_zero_of_burst (hg : defaultGenerator prm) {pattern : List Byte} {n : Nat}
    (hlen : pattern.length = prm.pL) (hne : pattern ≠ zeros prm.pL) (hburst : burstAt pattern n) :
    crcRun prm 0 pattern ≠ 0 := by
  have hlong : 8 ≤ (pattern.flatMap bitsOf).length := by
    rw [flatMap_bitsOf_length, hlen, Params.pL]; omega
  obtain ⟨m, b, k, hbits⟩ := window_of_burst hlong (bitsOf_burst hburst)
  intro hzero
  rw [crcRun_unreflected hg.2, hbits, foldl_window_eq_zero_iff hg] at hzero
  refine hne (hlen ▸ eq_zeros_of_bits fun p => ?_)
  rw [hbits, hzero, bitsOf_zero, ← List.replicate_add, ← List.replicate_add, List.getD_eq_getElem?_getD,
    List.getElem?_getD_replicate_default_eq]

/-! The generator itself, as the last nine bits of a pattern, goes undetected. -/

/-- The one bit moves up seven times, then leaves. -/
theorem tableEntry_one (hg : defaultGenerator prm) : tableEntry prm 0x01 = 0x07 := by
  simp [tableEntry_eq, shiftStep_default hg]

theorem crcRun_zeros (prm : Params) (n : Nat) : crcRun prm 0 (zeros n) = 0 := by
  induction n with
  | zero => rfl
  | succ n ih =>
    rw [zeros, List.replicate_succ', crcRun_concat, ← zeros, ih, BitVec.xor_self]
    exact tableEntry_zero prm

theorem crcRun_generator (hg : defaultGenerator prm) (n : Nat) : crcRun prm 0 (zeros n ++ [0x01] ++ [0x07]) = 0 := by
  rw [crcRun_concat, crcRun_concat, crcRun_zeros, zeroByte_xor, tableEntry_one hg, BitVec.xor_self]
  exact tableEntry_zero prm

theorem exists_undetected (hg : defaultGenerator prm) :
    ∃ frame pattern : List Byte, frame.length = prm.pL ∧ pattern.length = prm.pL ∧ pattern ≠ zeros prm.pL
      ∧ passesChecksum prm frame ∧ passesChecksum prm (corrupt frame pattern) := by
  obtain ⟨body, hbody⟩ : ∃ body : List Byte, body.length = prm.pL - 1 := ⟨zeros _, zeros_length _⟩
  have hframe : (body ++ [checksum prm body]).length = prm.pL := by simp [hbody, Params.pL]
  have hpattern : (zeros prm.pD ++ [0x01] ++ [0x07]).length = prm.pL := by simp [Params.pL]
  have hpass := (passesChecksum_concat hbody (checksum prm body)).2 rfl
  refine ⟨_, _, hframe, hpattern, fun h => ?_, hpass,
    (passesChecksum_corrupt_iff hg hframe hpattern hpass).2 (crcRun_generator hg prm.pD)⟩
  have hmem : (0x07 : Byte) ∈ zeros prm.pL := h ▸ by simp
  exact absurd (List.eq_of_mem_replicate hmem) (by decide)

/-- Settles O9: what a corrupted frame that passes would mean for the error pattern alone, then kind by kind of error. -/
theorem corruptedFramesFailTheChecksum : Obligations.CorruptedFramesFailTheChecksum := by
  refine fun prm hg => ⟨fun frame pattern hf hp hpass herror => ?_, exists_undetected hg⟩
  rw [passesChecksum_corrupt_iff hg hf hp hpass]
  rcases herror with ⟨k, hk, rfl⟩ | hodd | ⟨hne, n, hburst⟩
  · exact crcRun_ne_zero_of_odd hg (by rw [patternWeight_oneBit hk])
  · exact crcRun_ne_zero_of_odd hg hodd
  · exact crcRun_ne_zero_of_burst hg hp hne hburst

end Sys2Proof.Proofs.ErrorDetection
end

section
/-! SUPPORT. Proofs of the statements on the frame codec (R91 to R101): what `decodeFrame` answers on an encoded frame
and on any sequence by its parts, the control words `ENC` and `DEC`, frame instructions of another data length, and the
response frame that `P` always commits. -/

namespace Sys2Proof.Proofs.FrameCodec

open Sys2Proof.Machine Sys2Proof.Laws Sys2Proof.Proofs.Invariants Sys2Proof.Proofs.Liveness

/-! Encoded frames, decoded in each direction (R98, R99). -/

theorem codeInSet_eq_false {dir : Direction} {code : Byte} (h : code ∉ codeList dir) : codeInSet dir code = false := by
  rwa [← Bool.not_eq_true, codeInSet_iff]

/-- No code byte is a command and a status (R65). -/
theorem codeLists_disjoint : List.Disjoint (codeList .req) (codeList .resp) := by
  have hout : ∀ code ∈ codeList .req, code ∉ codeList .resp := by decide
  exact fun code hreq => hout code hreq

theorem decodeFrame_encodeFrame_of_mem {prm : Params} {dir : Direction} {code : Byte} {data : List Byte}
    (hd : data.length = prm.pD) (h : code ∈ codeList dir) :
    decodeFrame prm dir (encodeFrame prm code data) = .ok (code, data) := by
  rw [decodeFrame_encodeFrame prm dir code data hd, if_pos ((codeInSet_iff dir code).2 h)]

theorem decodeFrame_encodeFrame_of_not_mem {prm : Params} {dir : Direction} {code : Byte} {data : List Byte}
    (hd : data.length = prm.pD) (h : code ∉ codeList dir) :
    decodeFrame prm dir (encodeFrame prm code data) = .error .unknownOpcode := by
  rw [decodeFrame_encodeFrame prm dir code data hd, codeInSet_eq_false h]; rfl

/-- Settles O3: the code of an encoded frame is in the set of its direction. -/
theorem frameRoundTrip : Obligations.FrameRoundTrip := fun _ _ hd =>
  ⟨fun _ hc => decodeFrame_encodeFrame_of_mem (dir := .req) hd hc,
    fun _ hc => decodeFrame_encodeFrame_of_mem (dir := .resp) hd hc⟩

/-- Settles O4: the code of an encoded frame is outside the other direction's set. -/
theorem frameInWrongDirectionIsUnknown : Obligations.FrameInWrongDirectionIsUnknown := fun _ _ hd =>
  ⟨fun _ hc => decodeFrame_encodeFrame_of_not_mem hd (codeLists_disjoint hc),
    fun _ hc => decodeFrame_encodeFrame_of_not_mem hd (codeLists_disjoint.symm hc)⟩

/-! The checks on any sequence, in their order (R94, R95). -/

theorem decodeFrame_badChecksum {prm : Params} {code cs : Byte} {data : List Byte} (dir : Direction)
    (hd : data.length = prm.pD) (h : cs ≠ checksum prm (code :: data)) :
    decodeFrame prm dir (code :: data ++ [cs]) = .error .badChecksum := by
  rw [decodeFrame_parts prm dir code cs data hd, if_pos h.symm]

/-- Settles O5: a wrong checksum is refused whatever the code, and with a right one the sequence is the encoding of its
code and data. -/
theorem frameChecksComeInOrder : Obligations.FrameChecksComeInOrder := by
  intro prm bytes dir codes
  have hcodes : codes = codeList dir := by cases dir <;> rfl
  rw [hcodes]
  refine ⟨decodeFrame_length prm dir bytes, fun code data cs hd hbytes => ?_⟩
  subst hbytes
  refine ⟨decodeFrame_badChecksum dir hd, ?_, ?_⟩
  · rintro rfl hout
    exact decodeFrame_encodeFrame_of_not_mem hd hout
  · rintro rfl hin
    exact decodeFrame_encodeFrame_of_mem hd hin

/-! The control words `ENC` and `DEC` (R100, R101). -/

theorem decodeReadBuffer_of_ok {s : State} {st : Byte} {data : List Byte}
    (h : decodeFrame s.cfg .resp (readBytes s.h) = .ok (st, data)) :
    decodeReadBuffer s = setResult 0x00 (keepResponse st data s) := by
  rw [decodeReadBuffer, h]

theorem decodeReadBuffer_of_error {s : State} {e : DecodeError}
    (h : decodeFrame s.cfg .resp (readBytes s.h) = .error e) :
    decodeReadBuffer s = setResult (decodeErrorCode e) (clearResponse s) := by
  rw [decodeReadBuffer, h]

theorem exec_enc_of_atRest {s : State} (hr : s.h.state.atRest) :
    exec .enc s = .next (reply .accepted 0x00 (encodeRequest s)) :=
  portOp_accepted s encodeRequest hr

theorem exec_dec_of_atRest {s : State} (hr : s.h.state.atRest) :
    exec .dec s = .next (reply .accepted 0x00 (decodeReadBuffer s)) :=
  portOp_accepted s decodeReadBuffer hr

/-- Settles O15: the port accepts `ENC` (R157), and what it writes is R92's frame. -/
theorem encodeOperationResult : Obligations.EncodeOperationResult := fun _ hr =>
  exec_enc_of_atRest hr

/-- Settles O16: the port accepts `DEC` (R157), and the codec's answer on the read buffer decides its effect. -/
theorem decodeOperationResult : Obligations.DecodeOperationResult := by
  refine fun s hr => ⟨fun st data h => ?_, fun e h => ?_⟩
  · rw [exec_dec_of_atRest hr, decodeReadBuffer_of_ok h]; rfl
  · rw [exec_dec_of_atRest hr, decodeReadBuffer_of_error h]
    cases e <;> rfl

/-! Frame instructions of another data length (R94, R121, R136). -/

theorem dispatchCommand_wrongLength {s : State} {data : List Byte} (c : Cmd) (hs : s.p.state = .dispatching)
    (hl : data.length ≠ s.cfg.pD) : dispatchCommand c data s = refuseFrame .lengthMismatch s := by
  rcases dispatchCommand_cases s c data with ⟨h, -⟩ | ⟨-, -, h⟩ | ⟨-, h, -⟩ | ⟨-, h, -⟩
  · exact absurd hs h
  · exact h
  · exact absurd h hl
  · exact absurd h hl

theorem validateStatus_wrongLength {s : State} {data : List Byte} (st : Status) (hs : s.h.state = .validating)
    (hl : data.length ≠ s.cfg.pD) : validateStatus st data s = refuseResponse .lengthMismatch s := by
  rcases validateStatus_cases s st data with ⟨h, -⟩ | ⟨-, -, h⟩ | ⟨-, h, -⟩ | ⟨-, h, -⟩
  · exact absurd hs h
  · exact h
  · exact absurd h hl
  · exact absurd h hl

/-- Settles O33: both steps check the length before anything else of the frame. -/
theorem illFormedFrameIsALengthError : Obligations.IllFormedFrameIsALengthError := by
  refine fun s data hl => ⟨fun hs c => ?_, fun hs st => ?_⟩
  · rw [exec_cmd, dispatchCommand_wrongLength c hs hl]; rfl
  · rw [exec_status, validateStatus_wrongLength st hs hl]; rfl

/-! The DISPATCH step and the RESPOND step after it (R120, R126, R129). -/

/-- The RESPOND step, let by an input. -/
theorem step_respond {s : State} {rest : List Event} (hs : s.inSpec) (hp : s.p.state = .responding)
    (hi : s.inputs = .periph :: rest) : step s = .next (respondStep { s with inputs := rest }) := by
  rw [step_input s .periph rest hs hi]
  simp only [fetchEvent, fetchPeriph, hp, runFetched]

/-- The DISPATCH step, let by an input: whatever was received, `P` chooses a response that can be encoded. -/
theorem step_dispatch_chooses {s : State} {rest : List Event} (hs : s.inSpec) (hp : s.p.state = .dispatching)
    (hi : s.inputs = .periph :: rest) :
    ∃ t, step s = .next t ∧ t.cfg = s.cfg ∧ t.h = s.h ∧ t.inputs = rest ∧ t.p.state = .responding
      ∧ codeInSet .resp t.p.rstatus = true ∧ t.p.rdata.length = s.cfg.pD ∧ t.p.rxb = s.p.rxb ∧ t.p.rxn = s.p.rxn := by
  obtain ⟨t, ht, hstate, hstatus, hdata, hrxb, hrxn, -⟩ := dispatch_responds { s with inputs := rest } hp
  obtain ⟨hcfg, hh, -, hin⟩ := periph_frame { s with inputs := rest } t ht
  exact ⟨t, (step_input s .periph rest hs hi).trans ht, hcfg, hh, hin, hstate, hstatus, hdata, hrxb, hrxn⟩

/-- Settles O44: DISPATCH chooses a response, and RESPOND commits its encoding (R126). -/
theorem dispatchAlwaysResponds : Obligations.DispatchAlwaysResponds := by
  intro s rest hs hp hi
  obtain ⟨t, hstep, hcfg, hh, hin, hstate, hstatus, hdata, hrxb, hrxn⟩ := step_dispatch_chooses hs hp hi
  have hrespond := step_respond (step_inSpec hstep) hstate hin
  refine ⟨respondStep { t with inputs := rest }, t.p.rstatus, t.p.rdata, ?_, rfl, hh, rfl, rfl, ?_, ?_, hrxb, hrxn⟩
  · rw [run_next 1 s t hstep, run_next 0 t _ hrespond, run_zero]
  · rw [respondStep_p, hcfg]
    exact encodeFrame_pL s.cfg t.p.rstatus t.p.rdata hdata
  · rw [respondStep_p, hcfg]
    exact decodeFrame_encodeFrame_of_mem hdata ((codeInSet_iff .resp _).1 hstatus)

end Sys2Proof.Proofs.FrameCodec
end

section
/-! SUPPORT. Proofs of the statements on the vocabulary (R102 to R112): how the DISPATCH step answers a command with
either actuator, and how the VALIDATE step ends a transaction on a status. -/

namespace Sys2Proof.Proofs.Vocabulary

open Sys2Proof.Machine Sys2Proof.Laws Sys2Proof.Proofs.Freshness

/-! Which arguments are valid (R103). -/

/-- Only `SET_SPEED` has arguments to reject. -/
theorem validArgs_of_ne_setSpeed (prm : Params) {c : Cmd} (hc : c ≠ .setSpeed) (data : List Byte) :
    validArgs prm c data = true := by
  cases c with
  | ping | stop | getStatus => rfl
  | setSpeed => exact absurd rfl hc

theorem eq_setSpeed_of_not_validArgs {prm : Params} {c : Cmd} {data : List Byte}
    (h : ¬ validArgs prm c data = true) : c = .setSpeed :=
  Decidable.not_not.1 fun hc => h (validArgs_of_ne_setSpeed prm hc data)

theorem validArgs_of_setSpeed {prm : Params} {c : Cmd} {data : List Byte}
    (h : c = .setSpeed → ∃ d0 d1 more, data = d0 :: d1 :: more ∧ d0.toNat ≤ prm.speedMax ∧ d1.toNat ≤ 1) :
    validArgs prm c data = true := by
  by_cases hc : c = .setSpeed
  · obtain ⟨d0, d1, more, rfl, hspeed, hdir⟩ := h hc
    rw [hc, validArgs_setSpeed prm d0 d1 more hspeed hdir]
  · exact validArgs_of_ne_setSpeed prm hc data

/-! The actuator's answer (R124, R125). -/

theorem invoke_stub {s : State} (h : s.cfg.actuator = .stub) (c : Cmd) (data : List Byte) :
    invoke c data s = (stubAnswer s.act c data, { s with act := stubEffect s.act c data }) := by
  simp only [invoke, h]

theorem invoke_oracle {s : State} (h : s.cfg.actuator = .oracle) (c : Cmd) (data : List Byte) :
    invoke c data s = ((takeDraw s).1.answer, (takeDraw s).2) := by
  simp only [invoke, h]

theorem fitTo_twoBytes {n : Nat} (h : 2 ≤ n) (b0 b1 : Byte) :
    fitTo n [b0, b1] = b0 :: b1 :: List.replicate (n - 2) 0x00 := by
  obtain ⟨k, rfl⟩ := Nat.exists_eq_add_of_le' h
  simp [fitTo, zeros]

/-! The DISPATCH step on a command of the right length (R120, R122, R123). -/

section
variable {s : State} {c : Cmd} {data : List Byte}

theorem exec_validArgs (hs : s.p.state = .dispatching) (hl : data.length = s.cfg.pD)
    (hv : validArgs s.cfg c data = true) : exec (c.instr data) s = .next (actOn c data s) := by
  rw [exec_cmd]
  rcases dispatchCommand_cases s c data with ⟨h, -⟩ | ⟨-, h, -⟩ | ⟨-, -, -, h⟩ | ⟨-, -, h, -⟩
  · exact absurd hs h
  · exact absurd hl h
  · rw [h]
  · rw [hv] at h; cases h

theorem exec_not_validArgs (hs : s.p.state = .dispatching) (hl : data.length = s.cfg.pD)
    (hv : ¬ validArgs s.cfg c data = true) :
    exec (c.instr data) s = .next (chooseResponse .errorOutOfRange (zeros s.cfg.pD) s) := by
  rw [exec_cmd]
  rcases dispatchCommand_cases s c data with ⟨h, -⟩ | ⟨-, h, -⟩ | ⟨-, -, h, -⟩ | ⟨-, -, -, h⟩
  · exact absurd hs h
  · exact absurd hl h
  · exact absurd h hv
  · rw [h]

/-- With the stub: `OK`, the stub's two bytes padded with zeros, and its new state. -/
theorem exec_stub {b0 b1 : Byte} (hstub : s.cfg.actuator = .stub) (hs : s.p.state = .dispatching)
    (hl : data.length = s.cfg.pD) (hD : 2 ≤ s.cfg.pD) (hv : validArgs s.cfg c data = true)
    (ha : stubAnswer s.act c data = .ok [b0, b1]) :
    exec (c.instr data) s = .next (chooseResponse .ok (b0 :: b1 :: List.replicate (s.cfg.pD - 2) 0x00)
      { s with act := stubEffect s.act c data }) := by
  rw [exec_validArgs hs hl hv, actOn, invoke_stub hstub, ha, answerStatus, answerData, fitTo_twoBytes hD]

/-- With any actuator: the translation of the answer drawn. -/
theorem exec_oracle (horacle : s.cfg.actuator = .oracle) (hs : s.p.state = .dispatching)
    (hl : data.length = s.cfg.pD) (hv : validArgs s.cfg c data = true) :
    exec (c.instr data) s = .next (chooseResponse (answerStatus (takeDraw s).1.answer)
      (answerData s.cfg (takeDraw s).1.answer) (takeDraw s).2) := by
  rw [exec_validArgs hs hl hv, actOn, invoke_oracle horacle]

end

/-- Settles O24: every answer of the stub is two bytes. -/
theorem commandResultsUnderStub : Obligations.CommandResultsUnderStub := by
  intro s d0 d1 more hstub hs hl rest
  have hD : 2 ≤ s.cfg.pD := by rw [← hl]; simp
  refine ⟨?ping, ?stop, fun hspeed hdir => ?setSpeed, ?getStatus⟩
  case ping => exact exec_stub (c := .ping) hstub hs hl hD rfl rfl
  case stop => exact exec_stub (c := .stop) hstub hs hl hD rfl rfl
  case setSpeed =>
    exact exec_stub (c := .setSpeed) hstub hs hl hD (validArgs_setSpeed s.cfg d0 d1 more hspeed hdir) rfl
  case getStatus => exact exec_stub (c := .getStatus) hstub hs hl hD rfl rfl

/-- Settles O25: the answer is the next draw's, or a free value's when none is fixed. -/
theorem actuatorOutcomeIsTranslated : Obligations.ActuatorOutcomeIsTranslated := by
  intro s c data horacle hs hl hargs answered
  have hexec := exec_oracle horacle hs hl (validArgs_of_setSpeed hargs)
  have translated (t : State) (ht : t.p = s.p) (a : ActAnswer) :
      .next (chooseResponse (answerStatus a) (answerData s.cfg a) t) = answered t a := by
    rw [chooseResponse, ht]
    cases a <;> rfl
  refine ⟨fun d ds hd => ?_, fun hd => ⟨(Config.freeDraw s.drawCount).answer, ?_⟩⟩
  · rw [hexec, takeDraw_fixed s d ds hd]
    exact translated { s with draws := ds } rfl d.answer
  · rw [hexec, takeDraw_free s hd]
    exact translated { s with drawCount := s.drawCount + 1 } rfl _

/-- Settles O28: an accepted command has its answer's status, which the contract bounds; only `SET_SPEED` can be
rejected, and its subset holds `ERROR_OUT_OF_RANGE`. -/
theorem contractKeepsStatusInSubset : Obligations.ContractKeepsStatusInSubset := by
  intro s c data d ds horacle hs hl hd hcontract
  by_cases hv : validArgs s.cfg c data = true
  · refine ⟨_, exec_oracle horacle hs hl hv, ?_⟩
    rw [takeDraw_fixed s d ds hd]
    exact List.mem_map_of_mem hcontract
  · refine ⟨_, exec_not_validArgs hs hl hv, ?_⟩
    have hmem : Status.errorOutOfRange ∈ statusSubset c := by
      rw [eq_setSpeed_of_not_validArgs hv]; decide
    exact List.mem_map_of_mem hmem

/-! The VALIDATE step on a response of the right length (R136, R152). -/

theorem exec_failureStatus {s : State} {st : Status} {data : List Byte} (hs : s.h.state = .validating)
    (hl : data.length = s.cfg.pD) (hst : st ≠ .ok) : exec (st.instr data) s
      = .next (failedEntry .status .write (statusCode st) (keepResponse (statusCode st) data s)) := by
  rw [exec_status]
  rcases validateStatus_cases s st data with ⟨h, -⟩ | ⟨-, h, -⟩ | ⟨-, -, h, -⟩ | ⟨-, -, -, h⟩
  · exact absurd hs h
  · exact absurd hl h
  · exact absurd h hst
  · rw [h]

/-- Settles O29: `OK` is the one status that ends the transaction in DONE (R111). -/
theorem okResponseGivesDone : Obligations.OkResponseGivesDone := exec_ok

/-- Settles O30: class STATUS is 0xC0, with phase 0 (R23), and the code is the status byte. -/
theorem failureStatusGivesFailed : Obligations.FailureStatusGivesFailed := by
  intro s data hs hl failed
  have hfailed (st : Status) (hst : st ≠ .ok) : exec (st.instr data) s = failed (statusCode st) :=
    exec_failureStatus hs hl hst
  exact ⟨hfailed .errorBadCrc (by decide), hfailed .errorUnknownCommand (by decide),
    hfailed .errorBusy (by decide), hfailed .errorOutOfRange (by decide),
    hfailed .errorDomain (by decide), hfailed .errorBadLength (by decide)⟩

end Sys2Proof.Proofs.Vocabulary
end

section
/-! SUPPORT. Proofs of the statements on `P`'s dispatch engine (R113 to R130): what it rejects before it invokes anything,
the commit of a response, and where neither instance has a step to take. -/

namespace Sys2Proof.Proofs.PeriphDispatch

open Sys2Proof.Machine Sys2Proof.Laws Sys2Proof.Proofs.Scope Sys2Proof.Proofs.FrameCodec Sys2Proof.Proofs.Vocabulary

/-! Out-of-range arguments (R103, R122). -/

/-- `SET_SPEED` accepts no value past its bounds (R103); `validArgs_setSpeed` is the converse. -/
theorem setSpeed_bounds_of_validArgs {prm : Params} {d0 d1 : Byte} {more : List Byte}
    (h : validArgs prm .setSpeed (d0 :: d1 :: more) = true) : d0.toNat ≤ prm.speedMax ∧ d1.toNat ≤ 1 := by
  obtain ⟨hspeed, hdir⟩ : d0.toNat ≤ prm.speedMax ∧ (d1 = 0 ∨ d1 = 1) := by
    simpa [validArgs, speedOf, dirOf, dirLegal] using h
  refine ⟨hspeed, ?_⟩
  rcases hdir with rfl | rfl <;> decide

/-- Settles O26: the arguments are checked before the actuator is asked, whichever it is. -/
theorem outOfRangeIsRejectedNotClamped : Obligations.OutOfRangeIsRejectedNotClamped := by
  intro s d0 d1 more hs hl hout
  have hrejected : ¬ validArgs s.cfg .setSpeed (d0 :: d1 :: more) = true := fun hv => by
    obtain ⟨hspeed, hdir⟩ := setSpeed_bounds_of_validArgs hv
    omega
  exact exec_not_validArgs (c := .setSpeed) hs hl hrejected

/-! The DISPATCH step on bytes that do not decode (R120, R121). -/

theorem decodeReceived_of_overlong {prm : Params} {p : PeriphRegs} (h : prm.pL < p.rxn) :
    decodeReceived prm p = .error .lengthMismatch :=
  if_neg (Nat.not_le.2 h)

theorem decodeReceived_of_frame_error {prm : Params} {p : PeriphRegs} {e : DecodeError} (h : p.rxn ≤ prm.pL)
    (he : decodeFrame prm .req (p.rxb.take p.rxn) = .error e) : decodeReceived prm p = .error e := by
  rw [decodeReceived, if_pos h, (decodeRequest_error prm _ e).2 he]

theorem step_dispatch_refuses {s : State} {rest : List Event} {e : DecodeError} (hs : s.inSpec)
    (hi : s.inputs = .periph :: rest) (hp : s.p.state = .dispatching) (he : decodeReceived s.cfg s.p = .error e) :
    step s = .next (refuseFrame e { s with inputs := rest }) := by
  rw [step_input s .periph rest hs hi]
  simp only [fetchEvent, fetchPeriph, hp, dispatchStep, he, runFetched]

/-- Settles O27: whichever check the bytes fail, the step answers that error's status (R150). -/
theorem undecodableRequestIsAnswered : Obligations.UndecodableRequestIsAnswered := by
  intro s rest hs hi hp answered
  have hrefused (e : DecodeError) (he : decodeReceived s.cfg s.p = .error e) :
      step s = answered (statusCode (decodeErrorStatus e)) := step_dispatch_refuses hs hi hp he
  refine ⟨fun hover => hrefused .lengthMismatch (decodeReceived_of_overlong (by omega)), fun hn => ?_⟩
  exact ⟨fun he => hrefused .lengthMismatch (decodeReceived_of_frame_error hn he),
    fun he => hrefused .badChecksum (decodeReceived_of_frame_error hn he),
    fun he => hrefused .unknownOpcode (decodeReceived_of_frame_error hn he)⟩

/-! Frame instructions where their step is not enabled (R120, R136, log 8). -/

theorem dispatchCommand_elsewhere {s : State} (c : Cmd) (data : List Byte) (h : s.p.state ≠ .dispatching) :
    dispatchCommand c data s = s :=
  if_pos h

theorem validateStatus_elsewhere {s : State} (st : Status) (data : List Byte) (h : s.h.state ≠ .validating) :
    validateStatus st data s = s :=
  if_pos h

/-- Settles O32: both steps ask for their instance's state before anything else. -/
theorem framesRunOnlyWhenEnabled : Obligations.FramesRunOnlyWhenEnabled := by
  refine fun s data => ⟨fun hp c => ?_, fun hh st => ?_⟩
  · rw [exec_cmd, dispatchCommand_elsewhere c data hp]
  · rw [exec_status, validateStatus_elsewhere st data hh]

/-! The RESPOND step (R126). -/

/-- Only an owed response is answered by it (R57, log 6). -/
theorem linkAnswered_eq_ite (l : Link) : linkAnswered l = if l = .owed then .answered else l := by
  cases l <;> rfl

/-- Settles O43: the step commits the encoding of the response chosen (R92). -/
theorem respondStepCommits : Obligations.RespondStepCommits := by
  intro s rest hs hi hp
  rw [step_respond hs hp hi, ← linkAnswered_eq_ite]
  rfl

/-! The end of a run (R130, R181). -/

theorem fetchFree_none {s : State} (hh : hostEnabled s = false) (hp : periphEnabled s = false) :
    fetchFree s = .effect s := by
  simp only [fetchFree, hh, hp, Bool.false_eq_true, if_false]

/-- Settles O60: at rest `H` has no step, in IDLE `P` has none, and without input nothing else moves. -/
theorem endedRunStaysEnded : Obligations.EndedRunStaysEnded := by
  rintro s hs ⟨hi, hrest, hidle⟩
  have hh := hostEnabled_of_atRest s hrest
  have hp := periphEnabled_of_listening s (.inl hidle)
  refine ⟨hh, hp, ?_⟩
  rw [step_free s hs hi, fetchFree_none hh hp, runFetched]

end Sys2Proof.Proofs.PeriphDispatch
end

section
/-! SUPPORT. Proofs of the statements on `H`'s transaction engine (R131 to R157): `H.STATE` over one step, the control
words at a port at rest and at a busy one, and a response that does not decode. -/

namespace Sys2Proof.Proofs.HostTransaction

open Sys2Proof.Machine Sys2Proof.Laws Sys2Proof.Proofs.Instances Sys2Proof.Proofs.PeriphStates
  Sys2Proof.Proofs.Liveness

/-! `H.STATE` over one step (R131). -/

/-- The state `st'` may follow `st` with no reset: they are equal, or a row of R131's table. -/
def HostFollows (st st' : HostState) : Prop :=
  st' = st ∨ (st, st') ∈ hostTransitions

theorem HostFollows.refl (st : HostState) : HostFollows st st := .inl rfl

theorem hostFollows_sending {st : HostState} (hr : st.atRest) : HostFollows st .sending := by
  rcases hr with rfl | rfl | rfl <;> exact .inr (by decide)

theorem hostFollows_idle {st : HostState} (hr : st.atRest) : HostFollows st .idle := by
  rcases hr with rfl | rfl | rfl
  · exact .refl _
  · exact .inr (by decide)
  · exact .inr (by decide)

/-- The transaction steps of `H` are in the table. -/
theorem hostFollows_of_advances {st st' : HostState} (h : HostAdvances st st') : HostFollows st st' := by
  cases h <;> exact .inr (by decide)

/-- Of the control words only `TXN` and `ACK` touch `H.STATE` (R132, R142). -/
theorem wordEffect_hostFollows {s u : State} (hr : s.h.state.atRest) (h : WordEffect s u) :
    HostFollows s.h.state u.h.state := by
  cases h with
  | txn => exact hostFollows_sending hr
  | ack => exact hostFollows_idle hr
  | _ => exact .refl _

/-- A control word at the port (R157). -/
theorem fetchWord_hostFollows {s t : State} (cw : ControlWord) (h : runFetched (fetchWord cw s) = .next t) :
    HostFollows s.h.state t.h.state := by
  unfold fetchWord at h
  split at h
  · rename_i i hi
    rcases word_cases i s t (decodeWord_isWord s.cfg cw i hi) h with ⟨a, v, rfl⟩ | ⟨hr, u, he, rfl⟩
    · exact .refl _
    · rw [reply_h]; exact wordEffect_hostFollows hr he
  · cases h; exact .refl _

/-- A step given to `H` (R133 to R136). -/
theorem fetchHost_hostFollows {s t : State} (h : runFetched (fetchHost s) = .next t) :
    HostFollows s.h.state t.h.state := by
  rcases fetchHost_state s t h with hadv | ⟨-, rfl⟩
  · exact hostFollows_of_advances hadv
  · exact .refl _

/-- A step given to `P` is none of `H` (R54). -/
theorem fetchPeriph_hostFollows {s t : State} (h : runFetched (fetchPeriph s) = .next t) :
    HostFollows s.h.state t.h.state := by
  obtain ⟨-, hh, -⟩ := periph_frame s t h
  rw [hh]; exact .refl _

/-- A step with no input left (R180, log 2). -/
theorem fetchFree_hostFollows {s t : State} (h : runFetched (fetchFree s) = .next t) :
    HostFollows s.h.state t.h.state := by
  obtain ⟨u, hu, hcases⟩ := fetchFree_cases s t h
  obtain ⟨-, hh, -, -⟩ := sameButDraws_fields hu
  rcases hcases with ⟨-, h⟩ | ⟨-, h⟩ | ⟨-, -, rfl⟩
  · rw [← hh]; exact fetchHost_hostFollows h
  · rw [← hh]; exact fetchPeriph_hostFollows h
  · exact .refl _

/-- Settles O46: by the kind of the input; the two resets of `H` are inputs, and every other step follows the table. -/
theorem hostStateFollowsItsTable : Obligations.HostStateFollowsItsTable := by
  intro s t h
  obtain ⟨hs, -⟩ := step_moves s t h
  cases hi : s.inputs with
  | nil =>
    rw [step_free s hs hi] at h
    exact (fetchFree_hostFollows h).imp_right .inl
  | cons e rest =>
    rw [step_input s e rest hs hi] at h
    cases e with
    | word cw => exact (fetchWord_hostFollows (s := { s with inputs := rest }) cw h).imp_right .inl
    | host => exact (fetchHost_hostFollows (s := { s with inputs := rest }) h).imp_right .inl
    | periph => exact (fetchPeriph_hostFollows (s := { s with inputs := rest }) h).imp_right .inl
    | resetPeriph => cases h; exact .inl rfl
    | resetHost => cases h; exact .inr (.inr ⟨⟨rest, .inl rfl⟩, rfl⟩)
    | powerOn => cases h; exact .inr (.inr ⟨⟨rest, .inr rfl⟩, rfl⟩)

/-! The control words `REQ.SET`, `TXN` and `ACK` at a port at rest (R132, R142, R143, R157). -/

theorem exec_reqSet_of_atRest {s : State} {sel : BitVec 4} (imm : Byte) (hr : s.h.state.atRest)
    (hsel : sel.toNat ≤ s.cfg.pD) :
    exec (.reqSet sel imm) s = .next (reply .accepted 0x00 (setRequest sel imm s)) := by
  have hlegal : reqSelLegal s.cfg sel = true := decide_eq_true hsel
  rw [exec, execReqSet, hlegal, portOp_accepted s _ hr]

/-- Settles O14: selector 0 is the command byte, and every other one sets one element of the data bytes. -/
theorem requestSetResult : Obligations.RequestSetResult := by
  refine fun s imm hr => ⟨exec_reqSet_of_atRest imm hr (Nat.zero_le _), fun sel h1 hsel hlen => ?_⟩
  have hne : sel ≠ 0 := by rintro rfl; cases h1
  refine ⟨s.h.reqData.set (sel.toNat - 1) imm, ?_, ?_, ?_, fun k hk => ?_⟩
  · rw [exec_reqSet_of_atRest imm hr hsel, setRequest_data s sel imm hne]; rfl
  · rw [List.length_set, hlen]
  · exact List.getElem?_set_self (by omega)
  · exact List.getElem?_set_ne hk.symm

/-- Settles O18: the port accepts `TXN` in each state of rest (R157). -/
theorem transactionStartResult : Obligations.TransactionStartResult := fun s hr =>
  portOp_accepted s startTransaction hr

/-- Settles O19: the port accepts `ACK` in each state of rest (R157). -/
theorem acknowledgeResult : Obligations.AcknowledgeResult := fun s hr =>
  portOp_accepted s returnToIdle hr

/-! A busy port (R157). -/

/-- Settles O21: every control word but `RD` asks the port first, with its operands' legality. -/
theorem busyPortRejectsWords : Obligations.BusyPortRejectsWords := by
  intro i s hword hrd hwf hbusy
  have rejected (effect : State → State) : portOp true effect s
      = .next { s with replies := s.replies ++ [⟨.portBusy, 0x00⟩] } := portOp_busy s effect hbusy
  cases i
  case reqSet sel imm =>
    have hlegal : reqSelLegal s.cfg sel = true := hwf
    rw [exec, execReqSet, hlegal, rejected]
  case cfgSet sel imm =>
    have hlegal : (cfgSelLegal sel && cfgImmLegal sel imm) = true := hwf
    rw [exec, execCfgSet, hlegal, rejected]
  case rd reg => exact absurd rfl (hrd reg)
  case crcInit => rw [exec, execCrcInit, rejected]
  case crcUpd imm => rw [exec, execCrcUpd, rejected]
  case crcFin => rw [exec, execCrcFin, rejected]
  case enc | dec | txn | ack => exact rejected _
  all_goals cases hword

/-! A response that does not decode (R136, R153). -/

theorem step_validate_refuses {s : State} {rest : List Event} {e : DecodeError} (hs : s.inSpec)
    (hi : s.inputs = .host :: rest) (hh : s.h.state = .validating)
    (he : decodeFrame s.cfg .resp (readBytes s.h) = .error e) :
    step s = .next (refuseResponse e { s with inputs := rest }) := by
  rw [step_input s .host rest hs hi]
  simp only [fetchEvent, fetchHost, hh, validateStep, (decodeResponse_error _ _ e).2 he, runFetched]

/-- Settles O31: the FAILED entry of class DECODE, which is 0x80, with the error's code (R150). -/
theorem undecodableResponseGivesFailed : Obligations.UndecodableResponseGivesFailed := by
  intro s rest e hs hi hh he
  rw [step_validate_refuses hs hi hh he]
  cases e <;> rfl

end Sys2Proof.Proofs.HostTransaction
end
